-- ==== Sys2Proof/Word.lean ====
section
/-! DEFINITION. The word types of the CYHLL block: 64-bit bus words and bytes (R6, R8). -/

namespace Sys2Proof

/-- A 64-bit word: a bus register, a command word, a hash accumulator (R6, R20). -/
abbrev Word := BitVec 64

/-- One byte of the hash stream or of the register window (R53, R56). -/
abbrev Byte := BitVec 8

/-- One entry of the estimator register array, `REG_W = 5` bits (R6, R36). -/
abbrev Entry := BitVec 5

end Sys2Proof
end

