-- ==== Sys2Proof/Syntax.lean ====
section
/-! DEFINITION. The commands of the block (R74), one constructor per row of the opcode table, with the
operands as the unsigned integers of R73, and the assembler spelling of R78. -/

namespace Sys2Proof

/-- The twelve commands of R74. Operands are unsigned fields taken as they are (R73); their ranges are
checked by `Instr.WellFormed`. -/
inductive Instr where
  /-- `NOP` (R210). -/
  | nop
  /-- `HINIT`: start a hash (R110). -/
  | hinit
  /-- `HBLOCK`: absorb one 16-byte block (R111). -/
  | hblock
  /-- `HFINAL n[, ADD]`: absorb the tail, finalise, optionally add (R112). -/
  | hfinal (tailn : Nat) (add : Bool)
  /-- `EINIT p`: construct an estimator (R132). -/
  | einit (pf : Nat)
  /-- `RUPD`: register update from the current digest (R154). -/
  | rupd
  /-- `RMAX i, v, ps`: maximum into one entry (R190). -/
  | rmax (i v psrc : Nat)
  /-- `RREAD i`: read one entry (R191). -/
  | rread (i : Nat)
  /-- `CARD`: the cardinality estimate (R176). -/
  | card
  /-- `RANK mb`: standalone rank of `DATA0` (R153). -/
  | rank (mb : Nat)
  /-- `ALPHA p`: look up the bias constant (R133). -/
  | alpha (pf : Nat)
  /-- `CLRERR`: clear the error state (R211). -/
  | clrerr
  deriving DecidableEq, Repr

/-- The assembler line of a command, with decimal operands (R78). -/
def Instr.asm : Instr → String
  | .nop => "NOP"
  | .hinit => "HINIT"
  | .hblock => "HBLOCK"
  | .hfinal n false => "HFINAL " ++ toString n
  | .hfinal n true => "HFINAL " ++ toString n ++ ", ADD"
  | .einit p => "EINIT " ++ toString p
  | .rupd => "RUPD"
  | .rmax i v ps => "RMAX " ++ toString i ++ ", " ++ toString v ++ ", " ++ toString ps
  | .rread i => "RREAD " ++ toString i
  | .card => "CARD"
  | .rank mb => "RANK " ++ toString mb
  | .alpha p => "ALPHA " ++ toString p
  | .clrerr => "CLRERR"

end Sys2Proof
end

