-- ==== Sys2Proof/WellFormed.lean ====
section
/-! DEFINITION. Which commands can be encoded: the operand ranges of R73 and R78 ("an assembler refuses
an operand outside the field's range"). -/

namespace Sys2Proof

/-- Every operand of the command fits its field (R73, R78). -/
def Instr.wellFormed : Instr → Bool
  | .nop => true
  | .hinit => true
  | .hblock => true
  | .hfinal tailn _ => decide (tailn < 16)
  | .einit pf => decide (pf < 32)
  | .rupd => true
  | .rmax i v psrc => decide (i < 65536) && decide (v < 65536) && decide (psrc < 32)
  | .rread i => decide (i < 65536)
  | .card => true
  | .rank mb => decide (mb < 128)
  | .alpha pf => decide (pf < 32)
  | .clrerr => true

/-- `Instr.wellFormed` as a (decidable) proposition. -/
abbrev Instr.WellFormed (i : Instr) : Prop := i.wellFormed = true

end Sys2Proof
end

