-- ==== Sys2Proof/Decode.lean ====
section
/-! DEFINITION. The command word (R71 to R77): the opcode table as rows of mask and match, the total
decoder that rejects by name, the encoder of R73, and the decoder on the numbering of the machine-readable
opcode table. -/

namespace Sys2Proof

/-- The mnemonics of R74, without operands. -/
inductive Opcode where
  | nop | hinit | hblock | hfinal | einit | rupd | rmax | rread | card | rank | alpha | clrerr
  deriving DecidableEq, Repr

/-- One row of the opcode table: a word `c` is the row's command when `c & mask = matchWord` (R75). -/
structure Row where
  op : Opcode
  mask : Word
  matchWord : Word
  deriving DecidableEq, Repr

/-- The mask of a row: a 1 is a bit that must equal the match value (R75). -/
def Opcode.mask : Opcode → Word
  | .nop => 0xFFFFFFFFFFFFFFFF
  | .hinit => 0xFFFFFFFFFFFFFFFF
  | .hblock => 0xFFFFFFFFFFFFFFFF
  | .hfinal => 0xFFFFFFFFFFFFE0FF
  | .einit => 0xFFFFFFFFFFFFE0FF
  | .rupd => 0xFFFFFFFFFFFFFFFF
  | .rmax => 0xFFFF00000000E0FF
  | .rread => 0xFFFFFFFF0000FFFF
  | .card => 0xFFFFFFFFFFFFFFFF
  | .rank => 0xFFFFFFFFFFFF80FF
  | .alpha => 0xFFFFFFFFFFFFE0FF
  | .clrerr => 0xFFFFFFFFFFFFFFFF

/-- The `OPC` value of a row, which is its match word (R74, R75). -/
def Opcode.code : Opcode → Word
  | .nop => 0x00
  | .hinit => 0x01
  | .hblock => 0x02
  | .hfinal => 0x03
  | .einit => 0x10
  | .rupd => 0x11
  | .rmax => 0x12
  | .rread => 0x13
  | .card => 0x14
  | .rank => 0x20
  | .alpha => 0x21
  | .clrerr => 0x30

/-- The row of an opcode (R75). -/
def Opcode.row (op : Opcode) : Row := ⟨op, op.mask, op.code⟩

/-- The opcode table (R74, R75), in the table's order. -/
def opcodeTable : List Row :=
  [Opcode.nop.row, Opcode.hinit.row, Opcode.hblock.row, Opcode.hfinal.row, Opcode.einit.row, Opcode.rupd.row,
    Opcode.rmax.row, Opcode.rread.row, Opcode.card.row, Opcode.rank.row, Opcode.alpha.row, Opcode.clrerr.row]

/-- A word is the row's command: every masked bit has its match value (R75, R77). -/
def Row.admits (r : Row) (c : Word) : Bool := c &&& r.mask == r.matchWord

/-- The field of bits `hi` down to `lo` of a word, as an unsigned integer (R8). -/
def field (c : Word) (hi lo : Nat) : Nat := c.toNat / 2 ^ lo % 2 ^ (hi + 1 - lo)

/-- The command of a row with the operands taken from the word (R72, R73). -/
def Opcode.withOperands : Opcode → Word → Instr
  | .nop, _ => .nop
  | .hinit, _ => .hinit
  | .hblock, _ => .hblock
  | .hfinal, c => .hfinal (field c 11 8) (field c 12 12 == 1)
  | .einit, c => .einit (field c 12 8)
  | .rupd, _ => .rupd
  | .rmax, c => .rmax (field c 31 16) (field c 47 32) (field c 12 8)
  | .rread, c => .rread (field c 31 16)
  | .card, _ => .card
  | .rank, c => .rank (field c 14 8)
  | .alpha, c => .alpha (field c 12 8)
  | .clrerr, _ => .clrerr

/-- Why a word is illegal (R75, R76). Either way it completes with `E_ILLEGAL` (R77). -/
inductive Illegal where
  /-- `OPC` is one of the unassigned values of R76. -/
  | unassignedOpcode
  /-- `OPC` is assigned and a reserved bit is not 0 (R75). -/
  | reservedBit
  deriving DecidableEq, Repr

/-- The reason an illegal word is illegal: its `OPC` byte is no row's, or a reserved bit is set (R75, R76). -/
def illegalReason (c : Word) : Illegal :=
  if opcodeTable.any (fun r => c &&& 0xFF == r.matchWord) then .reservedBit else .unassignedOpcode

/-- The decoder (R77): total, one word, no state; the first row that admits the word is the only one. -/
def decode (c : Word) : Except Illegal Instr :=
  match opcodeTable.find? (fun r => r.admits c) with
  | some r => .ok (r.op.withOperands c)
  | none => .error (illegalReason c)

/-- The mnemonic of a command. -/
def Instr.opcode : Instr → Opcode
  | .nop => .nop
  | .hinit => .hinit
  | .hblock => .hblock
  | .hfinal _ _ => .hfinal
  | .einit _ => .einit
  | .rupd => .rupd
  | .rmax _ _ _ => .rmax
  | .rread _ => .rread
  | .card => .card
  | .rank _ => .rank
  | .alpha _ => .alpha
  | .clrerr => .clrerr

/-- The field `F = c[15:8]` of a command: its sub-fields are `TAILN` and `ADD` (`HFINAL`), `PF` (`EINIT`,
`ALPHA`), `PSRC` (`RMAX`) and `MB` (`RANK`) (R73). -/
def Instr.fieldF : Instr → Nat
  | .hfinal tailn add => tailn + (if add then 16 else 0)
  | .einit pf => pf
  | .rmax _ _ psrc => psrc
  | .rank mb => mb
  | .alpha pf => pf
  | .nop | .hinit | .hblock | .rupd | .rread _ | .card | .clrerr => 0

/-- The field `A = c[31:16]` of a command: a REG index (R73). -/
def Instr.fieldA : Instr → Nat
  | .rmax i _ _ => i
  | .rread i => i
  | .nop | .hinit | .hblock | .hfinal _ _ | .einit _ | .rupd | .card | .rank _ | .alpha _ | .clrerr => 0

/-- The field `B = c[47:32]` of a command: a REG value (R73). -/
def Instr.fieldB : Instr → Nat
  | .rmax _ v _ => v
  | .nop | .hinit | .hblock | .hfinal _ _ | .einit _ | .rupd | .rread _ | .card | .rank _ | .alpha _
  | .clrerr => 0

/-- The encoder (R73): `c = OPC | (F << 8) | (A << 16) | (B << 32)`. -/
def encode (i : Instr) : Word :=
  i.opcode.code ||| (BitVec.ofNat 64 i.fieldF <<< 8) ||| (BitVec.ofNat 64 i.fieldA <<< 16)
    ||| (BitVec.ofNat 64 i.fieldB <<< 32)

/-- The command that the decoder reads from the table's numbering of an instruction's bits: a command is
one 64-bit word (R71), of which the low `nbits` are given and the rest are 0. -/
def decodeTableWord (nbits w : Nat) : Option Instr :=
  match decode (BitVec.ofNat 64 (w % 2 ^ nbits)) with
  | .ok i => some i
  | .error _ => none

end Sys2Proof
end

