-- ==== Sys2Proof/Config.lean ====
section
/-! DEFINITION. What an implementation of the block fixes: the fixed sizes of R6, the instance
parameters of R7, and the free values (constants with no body) for what the spec leaves unspecified. -/

namespace Sys2Proof.Config

/-- `P_MIN`, the least precision (R6). -/
def pMin : Nat := 4

/-- `P_MAX`, the largest precision (R6). -/
def pMax : Nat := 16

/-- `M_MAX = 2^16`, the number of physical estimator registers (R6, R36). -/
def mMax : Nat := 65536

/-- The size in bytes of the register window (R6, R55). -/
def windowBytes : Nat := 256

/-- The width in bytes of an admitted bus access (R51). -/
def busBytes : Nat := 8

/-- The named parameters of one instance of the block (R7). They are arguments of the model: every
state carries them, no step changes them, and statements hold for every value of them. -/
structure Params where
  /-- `HASH_SEED`, 32 bits (R7). -/
  hashSeed : BitVec 32
  /-- `UPD_BIT_OFFSET / 32`, one of 0, 1, 2, 3 (R7, R33). -/
  updWord : Fin 4
  /-- `BASE / 256`: `BASE` is a multiple of 256 (R7, R55). -/
  basePage : Nat
  deriving DecidableEq, Repr

/-- `UPD_BIT_OFFSET`, in {0, 32, 64, 96} (R7). -/
def Params.updBitOffset (p : Params) : Nat := 32 * p.updWord.val

/-- `BASE`, the physical base address of the register window, a multiple of 256 (R7, R55). -/
def Params.base (p : Params) : Nat := 256 * p.basePage

/-- The parameters of the instance that `State.reset` describes: the defaults of R7 for `HASH_SEED` and
`UPD_BIT_OFFSET`. DESIGN CHOICE (log 2): `BASE` has no default in the spec, page 0 stands here; no rule
depends on it and no statement rests on it. -/
def defaultParams : Params := ⟨0, 0, 0⟩

/-- FREE VALUE (R35, R42, I5; log 1): the content of `H1` after reset and after `HFINAL`, for the
`n`-th time it becomes unspecified. -/
opaque unspecifiedH1 : Nat → Word

/-- FREE VALUE (R35, R42, I5; log 1): the content of `H2`, as `unspecifiedH1`. -/
opaque unspecifiedH2 : Nat → Word

/-- FREE VALUE (R36, R42, I6; log 1): the content of `REG[i]` after the `n`-th reset and before the next
`EINIT`. -/
opaque unspecifiedReg : Nat → Nat → Entry

/-- FREE VALUE (R130; log 6): what stands in place of `ALPHA_ROM[p]` where the table has no entry, in states that are
not reachable (R40). -/
opaque unspecifiedAlpha : Nat → BitVec 32

end Sys2Proof.Config
end

