-- ==== Sys2Proof/Machine/State.lean ====
section
/-! DEFINITION. The state of the block (R20), the host's pending accesses (R14, R50) and the answer the
block gave to the last one, and the state after reset (R42, R250). -/

namespace Sys2Proof.Machine

/-- No step of this machine faults: an error is a completion status of the command (R220), an access the
block does not admit is answered on the bus (R52), and the block is never halted or locked (R226). The type
has no constructor, so that a fault cannot even be written. -/
inductive Fault where
  deriving DecidableEq, Repr

/-- Reasons a command has no meaning in this model. No arm of `exec` uses one. -/
inductive Refusal where
  /-- Raised by an arm of `exec` whose instruction is not modelled yet; there is none. Safe: it stops. -/
  | notModelled (mnemonic : String)
  deriving DecidableEq, Repr

/-- What the outside world does to the block: a bus access of the one host (R14, R50, R51), of any address
and width so that the accesses of R52 are there too, or the reset input (R250). -/
inductive HostEvent where
  /-- A read of `bytes` bytes at bus byte address `addr`. -/
  | read (addr bytes : Nat)
  /-- A write of the word `v`, `bytes` bytes wide, at bus byte address `addr`. -/
  | write (addr bytes : Nat) (v : Word)
  /-- The reset input is asserted and released (R250); loss of power is the same (R237). -/
  | reset
  deriving DecidableEq, Repr

/-- What the block gives back to the host for an access (R51, R52). -/
inductive BusResponse where
  /-- No access has been answered since reset. -/
  | idle
  /-- A read was answered with this word (R51). -/
  | readData (v : Word)
  /-- A write was accepted (R51). -/
  | writeDone
  /-- A read was not admitted: bus error, with this data (0 by R52). -/
  | readError (v : Word)
  /-- A write was not admitted: bus error (R52). -/
  | writeError
  deriving DecidableEq, Repr

/-- The estimator register array `REG[0..65535]` as plain data: the entries that are not 0, by rising index.
An index that is not listed holds 0. -/
abbrev RegFile := List (Nat × Entry)

/-- The state of the block (R20) and, in the last fields, what the model adds to it: the instance's
parameters, the counters of the free values, the accesses the host has still to make, and the answer to
the last one. `ID`, `CTRL`, `STATUS`, `ALPHA`, `PARAM` and `irq` are views of these fields, and `CMD` has no
storage (R22 to R25, R32, R33, R229). -/
structure State where
  /-- `DATA0` (R26). -/
  data0 : Word
  /-- `DATA1` (R26). -/
  data1 : Word
  /-- `DIGEST_HI` (R27). -/
  digestHi : Word
  /-- `DIGEST_LO` (R27). -/
  digestLo : Word
  /-- `RESULT` (R28). -/
  result : Word
  /-- `EST_Z` (R29). -/
  estZ : Word
  /-- `EST_INFO` (R30). -/
  estInfo : Word
  /-- `HLEN` (R31). -/
  hlen : Word
  /-- `H1`, hidden (R35). -/
  h1 : Word
  /-- `H2`, hidden (R35). -/
  h2 : Word
  /-- `HOPEN` (R38). -/
  hopen : Bool
  /-- `DVALID` (R38). -/
  dvalid : Bool
  /-- `P`, the precision, 5 bits; 0 when no estimator is configured (R37). -/
  prec : BitVec 5
  /-- `ERR`, sticky (R24, R39). -/
  err : Bool
  /-- `LASTERR` (R24, R39). -/
  lastErr : BitVec 8
  /-- `FIRSTERR` (R24, R39). -/
  firstErr : BitVec 8
  /-- `IE = CTRL[0]` (R23). -/
  ie : Bool
  /-- What `EINIT` and the REG updates have written to `REG` (R36). It is read through `State.reg` only. -/
  regs : RegFile
  /-- `HASH_SEED`, `UPD_BIT_OFFSET` and `BASE` (R7): a parameter of the model, changed by no step. -/
  params : Config.Params
  /-- The model's own: how often `H1` and `H2` have become unspecified (log 1). -/
  draws : Nat
  /-- The model's own: how many resets there have been, which keys the unspecified `REG` (log 1). -/
  resets : Nat
  /-- The host's accesses to come, in the order the block receives them (R14, R21, R59; log 3). -/
  pending : List HostEvent
  /-- The answer to the last access (R51, R52; log 3). -/
  response : BusResponse
  deriving DecidableEq, Repr

/-- The machine right after reset (R42, R251): every readable register 0, no error, no hash, no digest, no
estimator; `H1`, `H2` hold the free values of `Config`, and so does `REG` as `State.reg` reads it while
`P = 0`; the default parameters of R7; no access pending. -/
def State.reset : State where
  data0 := 0
  data1 := 0
  digestHi := 0
  digestLo := 0
  result := 0
  estZ := 0
  estInfo := 0
  hlen := 0
  h1 := Config.unspecifiedH1 0
  h2 := Config.unspecifiedH2 0
  hopen := false
  dvalid := false
  prec := 0
  err := false
  lastErr := 0
  firstErr := 0
  ie := false
  regs := []
  params := Config.defaultParams
  draws := 0
  resets := 0
  pending := []
  response := .idle

end Sys2Proof.Machine
end

