-- ==== Sys2Proof/Machine/AlphaRom.lean ====
section
/-! DEFINITION. The alpha constant table (R130). -/

namespace Sys2Proof.Machine

/-- `ALPHA_ROM[p]`, Q0.32; indices outside 4..16 have no entry (R130). -/
def alphaRom : Nat → Option (BitVec 32)
  | 4 => some 0xAC49BA5E
  | 5 => some 0xB26E978D
  | 6 => some 0xB5810625
  | 7 => some 0xB71BF790
  | 8 => some 0xB7E0B672
  | 9 => some 0xB843B4C4
  | 10 => some 0xB8755BF0
  | 11 => some 0xB88E3991
  | 12 => some 0xB89AAAE5
  | 13 => some 0xB8A0E430
  | 14 => some 0xB8A400FE
  | 15 => some 0xB8A58F6F
  | 16 => some 0xB8A656AA
  | _ => none

/-- The table's word for a precision, as an integer. A precision outside 4..16, which no reachable state has (R37,
R40), has no entry, and a free value stands here (log 6). -/
def alphaInt (p : Nat) : Nat :=
  match alphaRom p with
  | some a => a.toNat
  | none => (Config.unspecifiedAlpha p).toNat

end Sys2Proof.Machine
end

