-- ==== Sys2Proof/Laws/ExpIrrational.lean ====
section
/-! SUPPORT. The exponential of a nonzero rational is irrational, from Mathlib's approximation lemma for the
Lindemann-Weierstrass theorem. It is why the truncation of R174 is never ambiguous. -/

namespace Sys2Proof.Laws

open Polynomial

/-- `b^d * g(a/b)` is an integer for an integer polynomial of degree at most `d`. -/
theorem scaled_aeval_int (g : ℤ[X]) (a b : ℤ) (hb : b ≠ 0) (d : ℕ) (hd : g.natDegree ≤ d) :
    ∃ k : ℤ, (k : ℂ) = (b : ℂ) ^ d * aeval ((a : ℂ) / b) g := by
  have hb' : (b : ℂ) ≠ 0 := by exact_mod_cast hb
  refine ⟨∑ i ∈ Finset.range (d + 1), g.coeff i * a ^ i * b ^ (d - i), ?_⟩
  rw [aeval_eq_sum_range' (Nat.lt_succ_of_le hd), Finset.mul_sum]
  push_cast
  refine Finset.sum_congr rfl fun i hi => ?_
  have hi' : i ≤ d := by simpa [Nat.lt_succ_iff] using hi
  have : (b : ℂ) ^ d = b ^ (d - i) * b ^ i := by rw [← pow_add, Nat.sub_add_cancel hi']
  rw [this, div_pow, zsmul_eq_mul]
  field_simp

/-- The exponential of a nonzero rational number is irrational. -/
theorem irrational_exp_rat (q : ℚ) (hq : q ≠ 0) : Irrational (Real.exp q) := by
  rintro ⟨w, hw⟩
  set a := q.num with ha
  set b := (q.den : ℤ) with hb
  have hb0 : b ≠ 0 := by simp [hb]
  have ha0 : a ≠ 0 := by simpa [ha] using hq
  set u := w.num
  set v := (w.den : ℤ) with hv
  have hv0 : v ≠ 0 := by simp [hv]
  have hw0 : u ≠ 0 := by
    intro h0
    have : w = 0 := by simpa [u] using h0
    have h1 := Real.exp_pos (q : ℝ)
    rw [← hw, this] at h1; simp at h1
  have hqc : (q : ℂ) = (a : ℂ) / b := by
    have := Rat.num_div_den q
    rw [← this]; push_cast; simp [ha, hb]
  have hexp : (v : ℂ) * Complex.exp ((a : ℂ) / b) = u := by
    rw [← hqc]
    have h2 : Complex.exp (q : ℂ) = (w : ℂ) := by
      have := congrArg (fun x : ℝ => (x : ℂ)) hw
      simpa using this.symm
    rw [h2]
    have := Rat.num_div_den w
    have hv' : (v : ℂ) ≠ 0 := by exact_mod_cast hv0
    rw [← this]; push_cast
    field_simp [hv']
    simp [u, hv]
  obtain ⟨c, hc⟩ := LindemannWeierstrass.exp_polynomial_approx (C b * X - C a)
    (by simpa using ha0)
  have hdeg : (C b * X - C a : ℤ[X]).natDegree = 1 := by
    rw [sub_eq_add_neg, ← C_neg]; exact natDegree_linear hb0
  have hb' : (b : ℂ) ≠ 0 := by exact_mod_cast hb0
  have hroot : ((a : ℂ) / b) ∈ (C b * X - C a : ℤ[X]).aroots ℂ := by
    rw [mem_aroots]
    refine ⟨?_, ?_⟩
    · intro h; rw [h] at hdeg; simp at hdeg
    · simp; field_simp; simp
  -- the error bound tends to zero
  have hlim : Filter.Tendsto (fun p : ℕ => |(v : ℝ)| * |(b : ℝ)| ^ p * (|c| ^ p / ((p - 1).factorial : ℝ)))
      Filter.atTop (nhds 0) := by
    rw [← Filter.tendsto_add_atTop_iff_nat 1]
    have h := (FloorSemiring.tendsto_pow_div_factorial_atTop (|(b : ℝ)| * |c|)).const_mul (|(v : ℝ)| * (|(b : ℝ)| * |c|))
    rw [mul_zero] at h
    refine h.congr fun n => ?_
    simp only [Nat.add_sub_cancel, mul_pow, pow_succ]
    ring
  have hev := (hlim.eventually (gt_mem_nhds one_pos)).and
    (Filter.eventually_gt_atTop (max a.natAbs (max b.natAbs u.natAbs)))
  obtain ⟨N, hN⟩ := Filter.eventually_atTop.1 hev
  obtain ⟨p, hpN, hp⟩ := Nat.exists_infinite_primes N
  obtain ⟨hsmall, hbig⟩ := hN p hpN
  simp only [max_lt_iff] at hbig
  obtain ⟨hpa, hpb, hpu⟩ := hbig
  obtain ⟨n, hn, gp, hgp, hbound⟩ := hc p (by simpa using hpa) hp
  specialize hbound hroot
  rw [hdeg, mul_one] at hgp
  obtain ⟨k, hk⟩ := scaled_aeval_int gp a b hb0 p (hgp.trans (Nat.sub_le _ _))
  have hint : ((n * u * b ^ p - p * v * k : ℤ) : ℂ) =
      v * b ^ p * (n • Complex.exp ((a : ℂ) / b) - p • aeval ((a : ℂ) / b) gp) := by
    push_cast
    rw [hk, ← hexp, zsmul_eq_mul, nsmul_eq_mul]; ring
  have hlt : |((n * u * b ^ p - p * v * k : ℤ) : ℝ)| < 1 := by
    have h1 : |((n * u * b ^ p - p * v * k : ℤ) : ℝ)| = ‖((n * u * b ^ p - p * v * k : ℤ) : ℂ)‖ := by
      rw [Complex.norm_intCast]
    rw [h1, hint, norm_mul, norm_mul, norm_pow, Complex.norm_intCast, Complex.norm_intCast]
    refine lt_of_le_of_lt (mul_le_mul_of_nonneg_left (hbound.trans ?_) (by positivity)) hsmall
    refine div_le_div_of_nonneg_right ?_ (by positivity)
    rw [← abs_pow]; exact le_abs_self _
  have hz : n * u * b ^ p - p * v * k = 0 := by
    rw [← Int.cast_abs] at hlt
    exact Int.abs_lt_one_iff.1 (by exact_mod_cast hlt)
  have hdvd : (p : ℤ) ∣ n * u * b ^ p := ⟨v * k, by linarith⟩
  have hpp : Prime (p : ℤ) := Nat.prime_iff_prime_int.1 hp
  have hnot : ∀ z : ℤ, z ≠ 0 → z.natAbs < p → ¬ (p : ℤ) ∣ z := by
    intro z hz0 hzp hd
    exact absurd (Nat.le_of_dvd (Int.natAbs_pos.2 hz0) (Int.natCast_dvd.1 hd)) (not_le.2 hzp)
  rcases hpp.dvd_or_dvd hdvd with h | h
  · rcases hpp.dvd_or_dvd h with h | h
    · exact hn h
    · exact hnot u hw0 hpu h
  · exact hnot b hb0 hpb (hpp.dvd_of_dvd_pow h)

end Sys2Proof.Laws
end

