-- ==== Sys2Proof/Machine/LogSeries.lean ====
section
/-! DEFINITION. An enclosure of `ln(a / b)` in exact integer arithmetic, which the exact logarithm of
`Machine/Logarithm.lean` is computed from (R174). With `2^e ≤ a/b < 2^(e+1)`, `c = b 2^e` and
`t = (a - c)/(a + c) ≤ 1/3`, `ln(a/b) = e ln 2 + ln(a/c)`, `ln(a/c) = 2 (t + t^3/3 + t^5/5 + ...)`, and `ln 2` is
the same series at `1/3`. -/

namespace Sys2Proof.Machine

/-- The denominator of `seriesNum`: the product of `(2 (k + j) + 1) y` over `j < n`. -/
def seriesDen (y k : Nat) : Nat → Nat
  | 0 => 1
  | n + 1 => (2 * k + 1) * y * seriesDen y (k + 1) n

/-- `seriesNum x y k n / seriesDen y k n` is the sum of `(x/y)^j / (2 (k + j) + 1)` over `j < n`. -/
def seriesNum (x y k : Nat) : Nat → Nat
  | 0 => 0
  | n + 1 => seriesDen y (k + 1) n * y + (2 * k + 1) * x * seriesNum x y (k + 1) n

/-- `atanhNum u v n / atanhDen v n` is the sum of the first `n` terms of `2 (t + t^3/3 + ...)` at `t = u/v`. -/
def atanhNum (u v n : Nat) : Nat := 2 * u * seriesNum (u * u) (v * v) 0 n

/-- The denominator of `atanhNum`. -/
def atanhDen (v n : Nat) : Nat := v * seriesDen (v * v) 0 n

/-- The exponent `e` with `2^e ≤ a/b < 2^(e+1)`. -/
def logExp (a b : Nat) : Nat := Nat.log2 (a / b)

/-- The numerator of the lower bound of `ln(a/b)` with `n` terms. -/
def logNum (a b n : Nat) : Nat :=
  let c := b * 2 ^ logExp a b
  logExp a b * atanhNum 1 3 n * atanhDen (a + c) n + atanhNum (a - c) (a + c) n * atanhDen 3 n

/-- The denominator of the lower bound of `ln(a/b)` with `n` terms. -/
def logDen (a b n : Nat) : Nat := atanhDen 3 n * atanhDen (a + b * 2 ^ logExp a b) n

/-- The floor of `k` times the lower bound of `ln(a/b)` with `n` terms. -/
def floorLow (k a b n : Nat) : Nat := k * logNum a b n / logDen a b n

/-- The floor of `k` times the upper bound of `ln(a/b)` with `n` terms, which is the lower bound plus
`(e + 1) / 9^n`. -/
def floorHigh (k a b n : Nat) : Nat :=
  k * (logNum a b n * 9 ^ n + (logExp a b + 1) * logDen a b n) / (logDen a b n * 9 ^ n)

/-- With `n` terms the two bounds have the same floor, which is then the floor of the exact value. -/
abbrev Decided (k a b n : Nat) : Prop := floorLow k a b n = floorHigh k a b n

end Sys2Proof.Machine
end

