-- ==== Sys2Proof/Laws/LogEnclosure.lean ====
section
/-! SUPPORT. The enclosure of `Machine/LogSeries.lean` holds the exact logarithm, and some number of terms
decides the floor, because `k ln(a/b)` is an integer only when it is 0 (R174). -/

namespace Sys2Proof.Laws

open Sys2Proof.Machine

theorem seriesDen_pos {y : Nat} (hy : 0 < y) (k n : Nat) : 0 < seriesDen y k n := by
  induction n generalizing k with
  | zero => simp [seriesDen]
  | succ n ih => exact Nat.mul_pos (Nat.mul_pos (by omega) hy) (ih (k + 1))

theorem series_eq {y : Nat} (hy : 0 < y) (x k n : Nat) :
    (seriesNum x y k n : ℝ) / seriesDen y k n =
      ∑ j ∈ Finset.range n, ((x : ℝ) / y) ^ j / (2 * (k + j : ℕ) + 1) := by
  induction n generalizing k with
  | zero => simp [seriesNum]
  | succ n ih =>
    have hy' : (y : ℝ) ≠ 0 := by positivity
    have hd : (seriesDen y (k + 1) n : ℝ) ≠ 0 := by
      have := seriesDen_pos hy (k + 1) n
      positivity
    have hk : (2 * (k : ℝ) + 1) ≠ 0 := by positivity
    have hstep : (seriesNum x y k (n + 1) : ℝ) / seriesDen y k (n + 1) =
        1 / (2 * k + 1) + x / y * ((seriesNum x y (k + 1) n : ℝ) / seriesDen y (k + 1) n) := by
      simp only [seriesNum, seriesDen]
      push_cast
      field_simp
    rw [hstep, ih (k + 1), Finset.sum_range_succ', Finset.mul_sum, add_comm]
    refine congrArg₂ _ (Finset.sum_congr rfl fun j _ => ?_) (by simp)
    rw [pow_succ, show k + 1 + j = k + (j + 1) by omega]
    ring

theorem atanhDen_pos {v : Nat} (hv : 0 < v) (n : Nat) : 0 < atanhDen v n :=
  Nat.mul_pos hv (seriesDen_pos (Nat.mul_pos hv hv) 0 n)

theorem atanh_eq {v : Nat} (hv : 0 < v) (u n : Nat) :
    (atanhNum u v n : ℝ) / atanhDen v n =
      ∑ j ∈ Finset.range n, 2 * (1 / (2 * (j : ℝ) + 1)) * ((u : ℝ) / v) ^ (2 * j + 1) := by
  have h := series_eq (Nat.mul_pos hv hv) (u * u) 0 n
  have hv' : (v : ℝ) ≠ 0 := by positivity
  have hs : (atanhNum u v n : ℝ) / atanhDen v n =
      2 * (u / v) * ((seriesNum (u * u) (v * v) 0 n : ℝ) / seriesDen (v * v) 0 n) := by
    simp only [atanhNum, atanhDen]
    push_cast
    have := seriesDen_pos (Nat.mul_pos hv hv) 0 n
    field_simp
  rw [hs, h, Finset.mul_sum]
  refine Finset.sum_congr rfl fun j _ => ?_
  have : ((u * u : ℕ) : ℝ) / (v * v : ℕ) = ((u : ℝ) / v) ^ 2 := by push_cast; field_simp
  rw [this, ← pow_mul, pow_succ]
  simp only [Nat.zero_add]
  ring

/-- The first `n` terms of the series are below the logarithm by at most `1 / 9^n` when `t ≤ 1/3`. -/
theorem atanh_bounds {t : ℝ} (h0 : 0 ≤ t) (h3 : t ≤ 1 / 3) (n : Nat) :
    ∑ j ∈ Finset.range n, 2 * (1 / (2 * (j : ℝ) + 1)) * t ^ (2 * j + 1) ≤ Real.log (1 + t) - Real.log (1 - t) ∧
    Real.log (1 + t) - Real.log (1 - t) ≤
      ∑ j ∈ Finset.range n, 2 * (1 / (2 * (j : ℝ) + 1)) * t ^ (2 * j + 1) + 1 / 9 ^ n := by
  have habs : |t| < 1 := by rw [abs_of_nonneg h0]; linarith
  have hsum := Real.hasSum_log_sub_log_of_abs_lt_one habs
  set f : ℕ → ℝ := fun j => 2 * (1 / (2 * (j : ℝ) + 1)) * t ^ (2 * j + 1) with hf
  have hf0 : ∀ j, 0 ≤ f j := fun j => by simp only [hf]; positivity
  refine ⟨hsum.summable.sum_le_tsum _ (fun j _ => hf0 j) |>.trans_eq hsum.tsum_eq, ?_⟩
  rw [← hsum.tsum_eq, ← hsum.summable.sum_add_tsum_nat_add n]
  refine add_le_add_right ?_ _
  have hgeo : HasSum (fun j : ℕ => (8 / 9 : ℝ) / 9 ^ n * (1 / 9) ^ j) (1 / 9 ^ n) := by
    have := (hasSum_geometric_of_lt_one (r := (1 / 9 : ℝ)) (by norm_num) (by norm_num)).mul_left ((8 / 9 : ℝ) / 9 ^ n)
    have e : (8 / 9 : ℝ) / 9 ^ n * (1 - 1 / 9)⁻¹ = 1 / 9 ^ n := by
      rw [show (1 - 1 / 9 : ℝ)⁻¹ = 9 / 8 by norm_num]; ring
    rwa [e] at this
  refine hasSum_le (fun j => ?_) ((summable_nat_add_iff n).2 hsum.summable).hasSum hgeo
  have h1 : t ^ (2 * (j + n) + 1) ≤ (1 / 3) ^ (2 * (j + n) + 1) := pow_le_pow_left₀ h0 h3 _
  have h2 : (1 / 3 : ℝ) ^ (2 * (j + n) + 1) = 1 / 3 * (1 / 9) ^ j / 9 ^ n := by
    rw [pow_succ, pow_mul, pow_add, show ((1 : ℝ) / 3) ^ 2 = 1 / 9 by norm_num, one_div_pow (9 : ℝ) n]; ring
  have h4 : 1 / (2 * ((j + n : ℕ) : ℝ) + 1) ≤ 1 := by
    rw [div_le_one (by positivity)]
    have : (0 : ℝ) ≤ ((j + n : ℕ) : ℝ) := by positivity
    linarith
  have h5 : 0 ≤ t ^ (2 * (j + n) + 1) := by positivity
  have h6 : (0 : ℝ) ≤ (1 / 9) ^ j / 9 ^ n := by positivity
  calc f (j + n) ≤ 2 * 1 * t ^ (2 * (j + n) + 1) := by
        simp only [hf]
        gcongr
    _ ≤ 2 * 1 * (1 / 3 * (1 / 9) ^ j / 9 ^ n) := by rw [← h2]; gcongr
    _ ≤ 8 / 9 / 9 ^ n * (1 / 9) ^ j := by
        have e1 : 2 * 1 * (1 / 3 * (1 / 9 : ℝ) ^ j / 9 ^ n) = 2 / 3 * ((1 / 9) ^ j / 9 ^ n) := by ring
        have e2 : 8 / 9 / 9 ^ n * (1 / 9 : ℝ) ^ j = 8 / 9 * ((1 / 9) ^ j / 9 ^ n) := by ring
        rw [e1, e2]
        nlinarith

theorem logExp_bounds {a b : Nat} (hb : 0 < b) (hab : b ≤ a) :
    b * 2 ^ logExp a b ≤ a ∧ a < 2 * (b * 2 ^ logExp a b) := by
  have hq : a / b ≠ 0 := by
    have := Nat.div_pos hab hb
    omega
  constructor
  · calc b * 2 ^ logExp a b ≤ b * (a / b) := Nat.mul_le_mul_left _ (Nat.log2_self_le hq)
      _ ≤ a := Nat.mul_div_le a b
  · have h : a / b < 2 ^ (logExp a b + 1) := Nat.lt_log2_self
    calc a < b * 2 ^ (logExp a b + 1) := by rw [Nat.div_lt_iff_lt_mul hb, Nat.mul_comm] at h; exact h
      _ = 2 * (b * 2 ^ logExp a b) := by rw [pow_succ]; ring

theorem logDen_pos {a b : Nat} (hb : 0 < b) (n : Nat) : 0 < logDen a b n :=
  Nat.mul_pos (atanhDen_pos (by norm_num) n) (atanhDen_pos (by positivity) n)

/-- `logNum / logDen` is below `ln(a/b)` by at most `(e + 1) / 9^n`. -/
theorem log_bounds {a b : Nat} (hb : 0 < b) (hab : b ≤ a) (n : Nat) :
    (logNum a b n : ℝ) / logDen a b n ≤ Real.log (a / b) ∧
    Real.log (a / b) ≤ (logNum a b n : ℝ) / logDen a b n + (logExp a b + 1) / 9 ^ n := by
  obtain ⟨hc, hc2⟩ := logExp_bounds hb hab
  set e := logExp a b with he
  set c := b * 2 ^ e with hcdef
  have hcpos : 0 < c := by positivity
  have hb' : (0 : ℝ) < b := by positivity
  have hc' : (0 : ℝ) < c := by positivity
  have ha' : (0 : ℝ) < a := by
    have : 0 < a := lt_of_lt_of_le hb hab
    positivity
  have hv : 0 < a + c := by omega
  set t : ℝ := ((a - c : ℕ) : ℝ) / ((a + c : ℕ) : ℝ) with ht
  have hsub : ((a - c : ℕ) : ℝ) = a - c := Nat.cast_sub hc
  have hca : (c : ℝ) ≤ a := by exact_mod_cast hc
  have hac : (a : ℝ) ≤ 2 * c := by
    have : a ≤ 2 * c := hc2.le
    exact_mod_cast this
  have htv : t = (a - c) / (a + c) := by rw [ht, hsub]; push_cast; rfl
  have ht0 : 0 ≤ t := by rw [ht]; positivity
  have ht3 : t ≤ 1 / 3 := by
    rw [htv, div_le_div_iff₀ (by positivity) (by norm_num)]; linarith
  have hlog : Real.log (1 + t) - Real.log (1 - t) = Real.log (a / c) := by
    rw [← Real.log_div (by linarith) (by linarith), htv]
    congr 1
    have : (1 : ℝ) - (a - c) / (a + c) = 2 * c / (a + c) := by field_simp; ring
    rw [this]
    field_simp
    ring
  have hlog2 : Real.log (1 + 1 / 3) - Real.log (1 - 1 / 3) = Real.log 2 := by
    rw [← Real.log_div (by norm_num) (by norm_num)]; norm_num
  have hsplit : Real.log (a / b) = e * Real.log 2 + Real.log (a / c) := by
    have : (a : ℝ) / b = 2 ^ e * (a / c) := by
      rw [hcdef]; push_cast; field_simp
    rw [this, Real.log_mul (by positivity) (by positivity), Real.log_pow]
  have hval : (logNum a b n : ℝ) / logDen a b n =
      e * ((atanhNum 1 3 n : ℝ) / atanhDen 3 n) + (atanhNum (a - c) (a + c) n : ℝ) / atanhDen (a + c) n := by
    have h1 := atanhDen_pos (v := 3) (by norm_num) n
    have h2 := atanhDen_pos hv n
    simp only [logNum, logDen, ← he, ← hcdef]
    push_cast
    field_simp
  have b1 := atanh_bounds ht0 ht3 n
  have b2 := atanh_bounds (t := 1 / 3) (by norm_num) le_rfl n
  rw [hlog, ht, ← atanh_eq hv] at b1
  rw [hlog2, show (1 / 3 : ℝ) = ((1 : ℕ) : ℝ) / ((3 : ℕ) : ℝ) by norm_num, ← atanh_eq (by norm_num)] at b2
  have he0 : (0 : ℝ) ≤ e := by positivity
  rw [hval, hsplit]
  constructor
  · have := mul_le_mul_of_nonneg_left b2.1 he0
    linarith [b1.1]
  · have := mul_le_mul_of_nonneg_left b2.2 he0
    have e1 : ((e : ℝ) + 1) / 9 ^ n = e * (1 / 9 ^ n) + 1 / 9 ^ n := by ring
    rw [e1]
    linarith [b1.2]

/-- The two floors enclose the floor of the exact value. -/
theorem floor_bounds {a b : Nat} (hb : 0 < b) (hab : b ≤ a) (k n : Nat) :
    floorLow k a b n ≤ ⌊(k : ℝ) * Real.log (a / b)⌋₊ ∧ ⌊(k : ℝ) * Real.log (a / b)⌋₊ ≤ floorHigh k a b n := by
  have hd := logDen_pos (a := a) hb n
  have hd' : (0 : ℝ) < logDen a b n := by positivity
  obtain ⟨hlo, hhi⟩ := log_bounds hb hab n
  have hk : (0 : ℝ) ≤ k := by positivity
  constructor
  · have : (floorLow k a b n : ℝ) ≤ k * Real.log (a / b) := by
      refine le_trans Nat.cast_div_le ?_
      push_cast
      rw [mul_div_assoc]
      exact mul_le_mul_of_nonneg_left hlo hk
    exact Nat.le_floor this
  · have h1 : (k : ℝ) * Real.log (a / b) ≤
        ((k * (logNum a b n * 9 ^ n + (logExp a b + 1) * logDen a b n) : ℕ) : ℝ) /
          ((logDen a b n * 9 ^ n : ℕ) : ℝ) := by
      refine (mul_le_mul_of_nonneg_left hhi hk).trans_eq ?_
      push_cast
      field_simp
    have h2 := Nat.floor_le_floor h1
    rwa [Nat.floor_div_eq_div] at h2

/-- With a decided number of terms the floor is exact. -/
theorem floorLow_eq_of_decided {k a b n : Nat} (hb : 0 < b) (hab : b ≤ a) (h : Decided k a b n) :
    floorLow k a b n = ⌊(k : ℝ) * Real.log (a / b)⌋₊ :=
  le_antisymm (floor_bounds hb hab k n).1 (h ▸ (floor_bounds hb hab k n).2)

/-- `k ln(a/b)` is no integer when it is not 0. -/
theorem mul_log_ne_nat {k a b : Nat} (hk : 0 < k) (hb : 0 < b) (hab : b < a) (z : Nat) :
    (k : ℝ) * Real.log (a / b) ≠ z := by
  intro h
  have hb' : (0 : ℝ) < b := by positivity
  have hab' : (b : ℝ) < a := by exact_mod_cast hab
  have hk' : (0 : ℝ) < k := by positivity
  have hlog : 0 < Real.log (a / b) := Real.log_pos (by rw [lt_div_iff₀ hb']; linarith)
  have hz : (z : ℝ) ≠ 0 := by rw [← h]; exact (mul_pos hk' hlog).ne'
  have hval : Real.log (a / b) = ((z / k : ℚ) : ℝ) := by
    push_cast
    rw [← h]
    field_simp
  have hirr := irrational_exp_rat (z / k : ℚ) (by
    have : (z : ℚ) ≠ 0 := by exact_mod_cast hz
    exact div_ne_zero this (by positivity))
  rw [← hval, Real.exp_log (div_pos (hb'.trans hab') hb')] at hirr
  exact hirr ⟨(a / b : ℚ), by push_cast; rfl⟩

/-- Some number of terms decides the floor (R174: "the truncation is never ambiguous"). -/
theorem exists_decided (k a b : Nat) (h : 0 < b ∧ b ≤ a) : ∃ n, Decided k a b n := by
  obtain ⟨hb, hab⟩ := h
  rcases Nat.eq_zero_or_pos k with rfl | hk
  · exact ⟨0, by simp [Decided, floorLow, floorHigh]⟩
  set x := (k : ℝ) * Real.log (a / b) with hx
  have hb' : (0 : ℝ) < b := by positivity
  have hab' : (b : ℝ) ≤ a := by exact_mod_cast hab
  have hk' : (0 : ℝ) < k := by positivity
  have hlog0 : 0 ≤ Real.log (a / b) := Real.log_nonneg (by rw [le_div_iff₀ hb']; linarith)
  have hx0 : 0 ≤ x := by positivity
  -- the error of both bounds tends to 0
  have hlim : Filter.Tendsto (fun n : ℕ => (k : ℝ) * ((logExp a b + 1) / 9 ^ n)) Filter.atTop (nhds 0) := by
    have := (tendsto_pow_atTop_nhds_zero_of_lt_one (r := (1 / 9 : ℝ)) (by norm_num) (by norm_num)).const_mul
      ((k : ℝ) * (logExp a b + 1))
    rw [mul_zero] at this
    refine this.congr fun n => ?_
    rw [one_div, inv_pow]; ring
  have hfl : x < ⌊x⌋₊ + 1 := Nat.lt_floor_add_one x
  -- both bounds of the enclosure with few enough error have the floor of x
  have key : ∀ d : ℝ, 0 < d → (x - d < ⌊x⌋₊ → x = ⌊x⌋₊ ∧ a = b) → x + d < ⌊x⌋₊ + 1 →
      ∀ n, (k : ℝ) * ((logExp a b + 1) / 9 ^ n) < d → Decided k a b n := by
    intro d hd hlow hhigh n hn
    obtain ⟨hlo, hhi⟩ := log_bounds hb hab n
    have hDpos := logDen_pos (a := a) hb n
    have hD : (0 : ℝ) < logDen a b n := by positivity
    have h1 : (k : ℝ) * ((logNum a b n : ℝ) / logDen a b n) ≤ x := mul_le_mul_of_nonneg_left hlo hk'.le
    have h2 : x ≤ (k : ℝ) * ((logNum a b n : ℝ) / logDen a b n + (logExp a b + 1) / 9 ^ n) :=
      mul_le_mul_of_nonneg_left hhi hk'.le
    have hup : floorHigh k a b n ≤ ⌊x⌋₊ := by
      have e1 : (((k * (logNum a b n * 9 ^ n + (logExp a b + 1) * logDen a b n) : ℕ) : ℝ) /
          ((logDen a b n * 9 ^ n : ℕ) : ℝ)) =
          (k : ℝ) * ((logNum a b n : ℝ) / logDen a b n + (logExp a b + 1) / 9 ^ n) := by
        push_cast; field_simp
      have e2 : floorHigh k a b n = ⌊(((k * (logNum a b n * 9 ^ n + (logExp a b + 1) * logDen a b n) : ℕ) : ℝ) /
          ((logDen a b n * 9 ^ n : ℕ) : ℝ))⌋₊ := (Nat.floor_div_eq_div _ _).symm
      rw [e2, e1]
      refine Nat.lt_succ_iff.1 ((Nat.floor_lt' (by omega)).2 ?_)
      push_cast
      rw [mul_add]
      linarith
    have hdown : ⌊x⌋₊ ≤ floorLow k a b n := by
      have e2 : floorLow k a b n = ⌊((k * logNum a b n : ℕ) : ℝ) / ((logDen a b n : ℕ) : ℝ)⌋₊ :=
        (Nat.floor_div_eq_div _ _).symm
      rw [e2]
      refine Nat.le_floor ?_
      push_cast
      rw [mul_div_assoc]
      by_cases hc : x - d < ⌊x⌋₊
      · obtain ⟨hxz, rfl⟩ := hlow hc
        have hx' : x = 0 := by rw [hx]; simp [hb'.ne']
        rw [← hxz, hx']
        positivity
      · rw [mul_add] at h2
        linarith
    exact le_antisymm ((floor_bounds hb hab k n).1.trans (floor_bounds hb hab k n).2) (hup.trans hdown)
  rcases Nat.lt_or_ge b a with hlt | hge
  · have hne : x ≠ ⌊x⌋₊ := mul_log_ne_nat hk hb hlt _
    have hgt : (⌊x⌋₊ : ℝ) < x := lt_of_le_of_ne (Nat.floor_le hx0) (Ne.symm hne)
    set d := min (x - ⌊x⌋₊) (⌊x⌋₊ + 1 - x) / 2 with hd
    have hdpos : 0 < d := by
      rw [hd]; exact half_pos (lt_min (by linarith) (by linarith))
    have hd1 : d < x - ⌊x⌋₊ := lt_of_lt_of_le (half_lt_self (lt_min (by linarith) (by linarith))) (min_le_left _ _)
    have hd2 : d < ⌊x⌋₊ + 1 - x := lt_of_lt_of_le (half_lt_self (lt_min (by linarith) (by linarith))) (min_le_right _ _)
    obtain ⟨n, hn⟩ := (hlim.eventually (gt_mem_nhds hdpos)).exists
    exact ⟨n, key d hdpos (fun h => absurd h (by linarith)) (by linarith) n hn⟩
  · have hab2 : a = b := le_antisymm hge hab
    have hx' : x = 0 := by rw [hx, hab2]; simp [hb'.ne']
    obtain ⟨n, hn⟩ := (hlim.eventually (gt_mem_nhds (show (0 : ℝ) < 1 / 2 by norm_num))).exists
    exact ⟨n, key (1 / 2) (by norm_num) (fun _ => ⟨by simp [hx'], hab2⟩) (by rw [hx']; norm_num) n hn⟩

end Sys2Proof.Laws
end

