-- ==== Sys2Proof/Machine/Logarithm.lean ====
section
/-! DEFINITION. The exact truncated logarithm of R174. -/

namespace Sys2Proof.Machine

/-- The number of series terms tried first: the enclosure is then narrower than `2^-190`. -/
def seriesTerms : Nat := 64

/-- `floor(k ln(a/b))` for `0 < b ≤ a`, the exact real value truncated (R174). If `seriesTerms` terms decide
the floor it is computed with them; otherwise with the least number of terms that does, which exists
(`Laws.exists_decided`). Outside `0 < b ≤ a`, where R174 takes no logarithm, the value is 0. -/
def floorLog (k a b : Nat) : Nat :=
  if Decided k a b seriesTerms then floorLow k a b seriesTerms
  else if h : 0 < b ∧ b ≤ a then floorLow k a b (Nat.find (Laws.exists_decided k a b h))
  else 0

end Sys2Proof.Machine
end

