-- ==== Sys2Proof/Machine/Operands.lean ====
section
/-! DEFINITION. The operand forms of the commands: the word operators of R9, the packing of stream bytes
into `DATA0`/`DATA1` (R56), the rank function in both formulations (R150, R157), and the update slice of the
digest (R151). -/

namespace Sys2Proof.Machine

/-- `rotl64(a, r) = ((a << r) | (a >> (64 - r))) mod 2^64` for `1 ≤ r ≤ 63` (R9). -/
def rotl64 (a : Word) (r : Nat) : Word := (a <<< r) ||| (a >>> (64 - r))

/-- `mask(n) = 2^n - 1` as a 64-bit word (R9); `mask(0) = 0` and `mask(64)` has every bit set (R103). -/
def maskWord (n : Nat) : Word := BitVec.ofNat 64 (2 ^ n - 1)

/-- `bitlen(x)`: the least `n` with `x < 2^n` (R9). -/
def bitlen (x : Nat) : Nat := if x = 0 then 0 else Nat.log2 x + 1

/-- `le64`: the little-endian assembly of (at most eight) bytes, zero-padded at the top (R10, R80). -/
def le64 : List Byte → Word
  | [] => 0
  | b :: bs => b.setWidth 64 ||| (le64 bs <<< 8)

/-- Stream byte `j` (0 to 15) of the group that `DATA0` and `DATA1` hold (R56). -/
def streamByte (d0 d1 : Word) (j : Nat) : Byte :=
  if j < 8 then d0.extractLsb' (8 * j) 8 else d1.extractLsb' (8 * (j - 8)) 8

/-- `rank(w, mb)`, none being the domain error (R150). -/
def rankOf (w mb : Nat) : Option Nat :=
  if mb < bitlen w then none else some (mb - bitlen w + 1)

/-- `clz_mb(w)`: the zero bits of `w` from bit `mb - 1` down to the highest set bit (R157). -/
def clz (w : Nat) : Nat → Nat
  | 0 => 0
  | mb + 1 => if w.testBit mb then 0 else clz w mb + 1

/-- The 128-bit digest `{DIGEST_HI, DIGEST_LO}` (R27, R114). -/
def digestOf (hi lo : Word) : BitVec 128 := hi ++ lo

/-- The update word `W = D[off + 31 : off]` (R151). -/
def updateWord (d : BitVec 128) (off : Nat) : BitVec 32 := d.extractLsb' off 32

/-- The register index `idx = W[P-1 : 0]` (R151). -/
def updateIndex (w : BitVec 32) (p : Nat) : Nat := w.toNat % 2 ^ p

/-- The remainder `w = W[31 : P]` (R151). -/
def updateRemainder (w : BitVec 32) (p : Nat) : Nat := w.toNat / 2 ^ p

/-- The rank `r = rank(w, 32 - P)` of the remainder (R151). The domain error cannot occur, because the
remainder has `32 - P` bits. -/
def updateRank (w : BitVec 32) (p : Nat) : Nat := (rankOf (updateRemainder w p) (32 - p)).getD 0

end Sys2Proof.Machine
end

