-- ==== Sys2Proof/Machine/Ops.lean ====
section
/-! DEFINITION. The operations that commands share: the estimator register array, the two completions of a
command and the clearing of the error state (R211, R224, R225), the register update (R152), and reset
(R250). -/

namespace Sys2Proof.Machine

/-! ### The estimator register array -/

/-- The entry at an index: 0 when it is not listed. -/
def RegFile.get : RegFile → Nat → Entry
  | [], _ => 0
  | (j, w) :: rest, i => if i = j then w else RegFile.get rest i

/-- The array with one entry written, in canonical form: an entry that becomes 0 is not listed. -/
def RegFile.set : RegFile → Nat → Entry → RegFile
  | [], i, v => if v = 0 then [] else [(i, v)]
  | (j, w) :: rest, i, v =>
    if i < j then (if v = 0 then (j, w) :: rest else (i, v) :: (j, w) :: rest)
    else if i = j then (if v = 0 then rest else (i, v) :: rest)
    else (j, w) :: RegFile.set rest i v

/-- The canonical form: indices strictly rising, below `M_MAX`, no listed entry 0. -/
abbrev RegFile.Canonical (r : RegFile) : Prop :=
  r.Pairwise (fun a b => a.1 < b.1) ∧ ∀ e ∈ r, e.1 < Config.mMax ∧ e.2 ≠ 0

/-- The precision `P` as an integer (R37). -/
def State.p (s : State) : Nat := s.prec.toNat

/-- `m = 2^P`, the number of addressable entries (R13, R37). -/
def State.m (s : State) : Nat := 2 ^ s.p

/-- `P != 0`: an estimator is configured (R24). -/
def State.configured (s : State) : Bool := s.prec != 0

/-- `REG[i]` (R36). Until the first `EINIT` after a reset the entry is unspecified: a free value (R42, log 1). -/
def State.reg (s : State) (i : Nat) : Entry :=
  if s.configured then RegFile.get s.regs i else Config.unspecifiedReg s.resets i

/-- The larger of an entry and an integer that fits an entry (R152, R190). -/
def maxEntry (old : Entry) (v : Nat) : Entry := BitVec.ofNat 5 (max old.toNat v)

/-- `REG[i] <- max(REG[i], v)` (R152, R190). -/
def State.raiseReg (s : State) (i v : Nat) : State :=
  { s with regs := RegFile.set s.regs i (maxEntry (s.reg i) v) }

/-- `P <- p` and `REG[i] <- 0` for all 65536 entries (R132). -/
def State.construct (s : State) (p : Nat) : State := { s with prec := BitVec.ofNat 5 p, regs := [] }

/-- `registerUpdate(D)`: the maximum of the digest's rank into the entry the digest selects (R151, R152). -/
def State.registerUpdate (s : State) (d : BitVec 128) : State :=
  let w := updateWord d s.params.updBitOffset
  s.raiseReg (updateIndex w s.p) (updateRank w s.p)

/-! ### Results and accumulators -/

/-- `RESULT <- v` (R28). -/
def State.setResult (s : State) (v : Word) : State := { s with result := v }

/-- `(H1, H2) <- (a, b)` and `HLEN <- len` (R110, R111). -/
def State.setHash (s : State) (a b len : Word) : State := { s with h1 := a, h2 := b, hlen := len }

/-- `HOPEN <- 1` (R110). -/
def State.openHash (s : State) : State := { s with hopen := true }

/-! ### Completion of a command: errors and success -/

/-- The error codes of R221, in the order of their priority (R223). -/
inductive ErrCode where
  | illegal
  | noCfg
  | seq
  | prec
  | index
  | value
  | domain
  deriving DecidableEq, Repr

/-- The 8-bit value of an error code (R221). -/
def ErrCode.code : ErrCode → BitVec 8
  | .illegal => 0x01
  | .noCfg => 0x02
  | .seq => 0x03
  | .prec => 0x04
  | .index => 0x05
  | .value => 0x06
  | .domain => 0x07

/-- Error completion with code `e` (R224): `LASTERR <- e`; `FIRSTERR <- e` if `ERR = 0`; `ERR <- 1`; nothing
else. This is all the block does in place of a trap entry (R227). -/
def State.errorCompletion (s : State) (e : ErrCode) : State :=
  { s with lastErr := e.code, firstErr := if s.err then s.firstErr else e.code, err := true }

/-- Success completion (R225): `LASTERR <- 0`. -/
def State.successCompletion (s : State) : State := { s with lastErr := 0 }

/-- `ERR <- 0`, `FIRSTERR <- 0` (R211): there is nothing to return from, this re-arms the sticky state (R228). -/
def State.clearErrors (s : State) : State := { s with err := false, firstErr := 0 }

/-- A command that ends in error: the state before it, with the error completion (R220, R224). -/
def fail (e : ErrCode) (s : State) : Host.Outcome State Fault Refusal := .next (s.errorCompletion e)

/-- A command that succeeds: its writes, then the success completion (R220, R225). -/
def succeed (s : State) : Host.Outcome State Fault Refusal := .next s.successCompletion

/-! ### Unspecified accumulators, and reset -/

/-- `H1` and `H2` become unspecified: new free values (R35, R42, I5; log 1). -/
def State.forgetAccumulators (s : State) : State :=
  { s with
    h1 := Config.unspecifiedH1 (s.draws + 1)
    h2 := Config.unspecifiedH2 (s.draws + 1)
    draws := s.draws + 1 }

/-- The reset input (R250): every piece of state has the value of R42, whatever it held before. The
parameters of the instance stay (log 2), and so do the accesses the host has still to make (log 5). -/
def State.resetBlock (s : State) : State :=
  { State.reset with
    params := s.params
    pending := s.pending
    draws := s.draws + 1
    resets := s.resets + 1
    h1 := Config.unspecifiedH1 (s.draws + 1)
    h2 := Config.unspecifiedH2 (s.draws + 1) }

end Sys2Proof.Machine
end

