-- ==== Sys2Proof/Machine/Card.lean ====
section
/-! DEFINITION. The cardinality estimate: the exact harmonic sum and zero count (R171), the scaled numerator
(R172), the region selection (R173), the estimate (R174), and the command `CARD` (R176). -/

namespace Sys2Proof.Machine

/-- The sum of `f` over the `2^p` indices from `lo` on. -/
def sumPow (f : Nat → Nat) (lo : Nat) : Nat → Nat
  | 0 => f lo
  | p + 1 => sumPow f lo p + sumPow f (lo + 2 ^ p) p

/-- `Zi`, the sum of `2^(32 - REG[i])` over `i < m` (R171): the harmonic sum `Z` as Q17.32. -/
def State.harmonicSum (s : State) : Nat := sumPow (fun i => 2 ^ (32 - (s.reg i).toNat)) 0 s.p

/-- `V`, the number of `i < m` with `REG[i] = 0` (R171). -/
def State.zeroCount (s : State) : Nat := sumPow (fun i => if s.reg i = 0 then 1 else 0) 0 s.p

/-- `N = ALPHA_ROM[P] * 2^(2P)` (R172). -/
def State.scaledNumerator (s : State) : Nat := alphaInt s.p * 2 ^ (2 * s.p)

/-- Which of the three estimate formulas `CARD` uses (R30, R173). -/
inductive Region where
  | raw
  | linear
  | large
  deriving DecidableEq, Repr

/-- The `REGION` field's value (R30). -/
def Region.code : Region → Nat
  | .raw => 0
  | .linear => 1
  | .large => 2

/-- The region selection of R173; none is its `E_DOMAIN` (R178). -/
def selectRegion (n zi v m : Nat) : Option Region :=
  if 2 * n ≤ 5 * m * zi then (if 0 < v then some .linear else some .raw)
  else if 30 * n ≤ 2 ^ 32 * zi then some .raw
  else if 2 ^ 32 * zi ≤ n then none
  else some .large

/-- `EST = floor(x * 2^24)` (R174): `x = N / Zi`, `x = m ln(m / V)`, or `x = -2^32 ln(1 - N / (2^32 Zi))`, the last
as `2^32 ln(2^32 Zi / (2^32 Zi - N))`. -/
def estimate (r : Region) (n zi v m : Nat) : Nat :=
  match r with
  | .raw => n * 2 ^ 24 / zi
  | .linear => floorLog (2 ^ 24 * m) m v
  | .large => floorLog (2 ^ 24 * 2 ^ 32) (2 ^ 32 * zi) (2 ^ 32 * zi - n)

/-- The writes of a successful `CARD` (R176): `RESULT`, `EST_Z` and `EST_INFO`. -/
def State.setEstimate (s : State) (est z info : Word) : State :=
  { s with result := est, estZ := z, estInfo := info }

/-- `EST_INFO = V | (region << 24)` (R30, R176). -/
def infoWord (v : Nat) (r : Region) : Word := BitVec.ofNat 64 v ||| (BitVec.ofNat 64 r.code <<< 24)

/-- `CARD` (R176). -/
def execCard (s : State) : Host.Outcome State Fault Refusal :=
  if s.configured = false then fail .noCfg s
  else
    match selectRegion s.scaledNumerator s.harmonicSum s.zeroCount s.m with
    | none => fail .domain s
    | some r =>
      succeed (s.setEstimate (BitVec.ofNat 64 (estimate r s.scaledNumerator s.harmonicSum s.zeroCount s.m))
        (BitVec.ofNat 64 s.harmonicSum) (infoWord s.zeroCount r))

end Sys2Proof.Machine
end

