-- ==== Sys2Proof/Machine/Control.lean ====
section
/-! DEFINITION. The control commands `NOP` (R210) and `CLRERR` (R211). -/

namespace Sys2Proof.Machine

/-- `NOP` (R210): success completion and nothing else. -/
def execNop (s : State) : Host.Outcome State Fault Refusal := succeed s

/-- `CLRERR` (R211): `ERR` and `FIRSTERR` become 0, then success completion. -/
def execClrerr (s : State) : Host.Outcome State Fault Refusal := succeed s.clearErrors

end Sys2Proof.Machine
end

