-- ==== Sys2Proof/Machine/Estimator.lean ====
section
/-! DEFINITION. Estimator configuration and the alpha lookup: the commands `EINIT` (R132) and `ALPHA` (R133),
and the `ALPHA` view register (R32). -/

namespace Sys2Proof.Machine

/-- `EINIT p` (R132): a new estimator of precision `p`, every entry 0. -/
def execEinit (p : Nat) (s : State) : Host.Outcome State Fault Refusal :=
  if p < Config.pMin ∨ Config.pMax < p then fail .domain s
  else succeed (s.construct p)

/-- `ALPHA p` (R133): the constant into `RESULT`; the table has entries for 4..16 only. -/
def execAlpha (p : Nat) (s : State) : Host.Outcome State Fault Refusal :=
  match alphaRom p with
  | none => fail .domain s
  | some a => succeed (s.setResult (a.setWidth 64))

/-- The `ALPHA` register (R32): `ALPHA_ROM[P]` zero-extended when `P != 0`, else 0. -/
def State.alphaView (s : State) : Word := BitVec.ofNat 64 (if s.configured then alphaInt s.p else 0)

end Sys2Proof.Machine
end

