-- ==== Sys2Proof/Machine/Hash.lean ====
section
/-! DEFINITION. The hash engine: the mixing primitives of MurmurHash3 x64-128 (R100 to R105), the whole
function over a byte stream (R106), and the commands `HINIT`, `HBLOCK`, `HFINAL` (R110 to R113). -/

namespace Sys2Proof.Machine

/-! ### Constants (R100) -/

/-- The magic multiplier `C1` (R100). -/
def mulC1 : Word := 0x87C37B91114253D5

/-- The magic multiplier `C2` (R100). -/
def mulC2 : Word := 0x4CF5AD432745937F

/-- The additive constant `N1` of `h1` (R100). -/
def addN1 : Word := 0x52DCE729

/-- The additive constant `N2` of `h2` (R100). -/
def addN2 : Word := 0x38495AB5

/-- The avalanche multiplier `F1` (R100). -/
def mulF1 : Word := 0xFF51AFD7ED558CCD

/-- The avalanche multiplier `F2` (R100). -/
def mulF2 : Word := 0xC4CEB9FE1A85EC53

/-! ### Mixing primitives -/

/-- `mixK1(k) = rotl64(k *64 C1, 31) *64 C2` (R101). -/
def mixK1 (k : Word) : Word := rotl64 (k * mulC1) 31 * mulC2

/-- `mixK2(k) = rotl64(k *64 C2, 33) *64 C1` (R101). -/
def mixK2 (k : Word) : Word := rotl64 (k * mulC2) 33 * mulC1

/-- The `h1` half of the block step (R102). -/
def blockH1 (h1 h2 k1 : Word) : Word := (rotl64 (h1 ^^^ mixK1 k1) 27 + h2) * 5 + addN1

/-- The `h2` half of the block step, which uses the new `h1` (R102). -/
def blockH2 (newH1 h2 k2 : Word) : Word := (rotl64 (h2 ^^^ mixK2 k2) 31 + newH1) * 5 + addN2

/-- The block step: one 16-byte block into the accumulators (R102). -/
def blockStep (h1 h2 k1 k2 : Word) : Word × Word :=
  (blockH1 h1 h2 k1, blockH2 (blockH1 h1 h2 k1) h2 k2)

/-- The tail step: the last `r` bytes (R103). Bytes at and beyond `r` are masked off. -/
def tailStep (h1 h2 t0 t1 : Word) (r : Nat) : Word × Word :=
  (if 0 < r then h1 ^^^ mixK1 (t0 &&& maskWord (8 * min r 8)) else h1,
    if 8 < r then h2 ^^^ mixK2 (t1 &&& maskWord (8 * (r - 8))) else h2)

/-- One exclusive or with the word shifted right by 33 (R104). -/
def xorShift33 (k : Word) : Word := k ^^^ (k >>> 33)

/-- The avalanche function (R104). -/
def fmix64 (k : Word) : Word := xorShift33 (xorShift33 (xorShift33 k * mulF1) * mulF2)

/-- The last two lines of the finalisation: `h1 <- h1 +64 h2`, then `h2 <- h2 +64 h1` (R105). -/
def crossAdd (h : Word × Word) : Word × Word := (h.1 + h.2, h.2 + (h.1 + h.2))

/-- The finalisation: length fold-in, cross additions, avalanche, cross additions (R105). -/
def finalStep (h1 h2 len : Word) : Word × Word :=
  let g := crossAdd (h1 ^^^ len, h2 ^^^ len)
  crossAdd (fmix64 g.1, fmix64 g.2)

/-- The seed as both accumulators start (R106, R110). -/
def seedWord (seed : BitVec 32) : Word := seed.setWidth 64

/-- The `b`-th 16-byte group of a stream as the two words that `DATA0` and `DATA1` hold (R56, R80); where the
stream ends inside the group, the words are zero-padded. -/
def groupWords (bytes : List Byte) (b : Nat) : Word × Word :=
  (le64 ((bytes.drop (16 * b)).take 8), le64 ((bytes.drop (16 * b + 8)).take 8))

/-- The accumulators after the first `nb` whole blocks of a stream (R106). -/
def absorbBlocks (seed : BitVec 32) (bytes : List Byte) : Nat → Word × Word
  | 0 => (seedWord seed, seedWord seed)
  | b + 1 =>
    let h := absorbBlocks seed bytes b
    blockStep h.1 h.2 (groupWords bytes b).1 (groupWords bytes b).2

/-- `MurmurHash3_x64_128(s, S)` of a byte stream (R106). -/
def murmur3 (seed : BitVec 32) (bytes : List Byte) : Word × Word :=
  let nb := bytes.length / 16
  let h := absorbBlocks seed bytes nb
  let t := tailStep h.1 h.2 (groupWords bytes nb).1 (groupWords bytes nb).2 (bytes.length % 16)
  finalStep t.1 t.2 (BitVec.ofNat 64 bytes.length)

/-! ### The commands -/

/-- `HINIT` (R110): both accumulators are the seed, the length is 0, a hash is open; an open hash is
discarded. -/
def execHinit (s : State) : Host.Outcome State Fault Refusal :=
  succeed (s.setHash (seedWord s.params.hashSeed) (seedWord s.params.hashSeed) 0).openHash

/-- `HBLOCK` (R111): absorb the block that `DATA0` and `DATA1` hold. -/
def execHblock (s : State) : Host.Outcome State Fault Refusal :=
  if s.hopen = false then fail .seq s
  else
    succeed (s.setHash (blockStep s.h1 s.h2 s.data0 s.data1).1 (blockStep s.h1 s.h2 s.data0 s.data1).2 (s.hlen + 16))

/-- The digest that `HFINAL r` computes from the open hash and the tail in `DATA0` and `DATA1` (R112). -/
def State.finishedDigest (s : State) (r : Nat) : Word × Word :=
  let t := tailStep s.h1 s.h2 s.data0 s.data1 r
  finalStep t.1 t.2 (s.hlen + BitVec.ofNat 64 r)

/-- The writes of `HFINAL` but for the register update (R112): the digest, the total length, `DVALID`, `HOPEN`.
The accumulators are consumed and become unspecified (R35, I5; log 1). -/
def State.closeHash (s : State) (hi lo len : Word) : State :=
  State.forgetAccumulators
    { s with digestHi := hi, digestLo := lo, hlen := len, dvalid := true, hopen := false }

/-- The state after the tail and the finalisation of `HFINAL r`, before any register update (R112). -/
def State.finalised (s : State) (r : Nat) : State :=
  s.closeHash (s.finishedDigest r).1 (s.finishedDigest r).2 (s.hlen + BitVec.ofNat 64 r)

/-- `HFINAL r[, ADD]` (R112, R113). -/
def execHfinal (r : Nat) (add : Bool) (s : State) : Host.Outcome State Fault Refusal :=
  if add = true ∧ s.configured = false then fail .noCfg s
  else if s.hopen = false then fail .seq s
  else if add = true then
    succeed ((s.finalised r).registerUpdate (digestOf (s.finishedDigest r).1 (s.finishedDigest r).2))
  else succeed (s.finalised r)

end Sys2Proof.Machine
end

