-- ==== Sys2Proof/Machine/Merge.lean ====
section
/-! DEFINITION. Merge, restore and register read: the commands `RMAX` (R190) and `RREAD` (R191). -/

namespace Sys2Proof.Machine

/-- `RMAX i, v, ps` (R190): the maximum of `v` into `REG[i]`, after every check. -/
def execRmax (i v ps : Nat) (s : State) : Host.Outcome State Fault Refusal :=
  if s.configured = false then fail .noCfg s
  else if ps ≠ s.p then fail .prec s
  else if s.m ≤ i then fail .index s
  else if 31 < v then fail .value s
  else succeed (s.raiseReg i v)

/-- `RREAD i` (R191): `REG[i]` zero-extended into `RESULT`. -/
def execRread (i : Nat) (s : State) : Host.Outcome State Fault Refusal :=
  if s.configured = false then fail .noCfg s
  else if s.m ≤ i then fail .index s
  else succeed (s.setResult ((s.reg i).setWidth 64))

end Sys2Proof.Machine
end

