-- ==== Sys2Proof/Machine/Rank.lean ====
section
/-! DEFINITION. Rank extraction and register update: the commands `RANK` (R153) and `RUPD` (R154). -/

namespace Sys2Proof.Machine

/-- `RANK mb` (R153): the rank of `DATA0` in `mb` bits. -/
def execRank (mb : Nat) (s : State) : Host.Outcome State Fault Refusal :=
  match rankOf s.data0.toNat mb with
  | none => fail .domain s
  | some r => succeed (s.setResult (BitVec.ofNat 64 r))

/-- `RUPD` (R154): the register update with the last finished digest, which stays valid. -/
def execRupd (s : State) : Host.Outcome State Fault Refusal :=
  if s.configured = false then fail .noCfg s
  else if s.dvalid = false then fail .seq s
  else succeed (s.registerUpdate (digestOf s.digestHi s.digestLo))

end Sys2Proof.Machine
end

