-- ==== Sys2Proof/Machine/Dispatch.lean ====
section
/-! DEFINITION. The meaning of a command: one arm per row of the opcode table (R74). -/

namespace Sys2Proof.Machine

def exec (i : Instr) (s : State) : Host.Outcome State Fault Refusal :=
  match i with
  | .nop => Sys2Proof.Machine.execNop s
  | .hinit => Sys2Proof.Machine.execHinit s
  | .hblock => Sys2Proof.Machine.execHblock s
  | .hfinal tailn add => Sys2Proof.Machine.execHfinal tailn add s
  | .einit pf => Sys2Proof.Machine.execEinit pf s
  | .rupd => Sys2Proof.Machine.execRupd s
  | .rmax idx v psrc => Sys2Proof.Machine.execRmax idx v psrc s
  | .rread idx => Sys2Proof.Machine.execRread idx s
  | .card => Sys2Proof.Machine.execCard s
  | .rank mb => Sys2Proof.Machine.execRank mb s
  | .alpha pf => Sys2Proof.Machine.execAlpha pf s
  | .clrerr => Sys2Proof.Machine.execClrerr s

end Sys2Proof.Machine
end

