-- ==== Sys2Proof/Machine/Flags.lean ====
section
/-! DEFINITION. The status and control words assembled from the state (R23, R24), and the interrupt output
(R229). -/

namespace Sys2Proof.Machine

/-- `STATUS` (R24), from bit 63 down: 0; `P` [28:24]; `FIRSTERR` [23:16]; `LASTERR` [15:8]; 0 [7:4]; `CFG` [3];
`DVALID` [2]; `HOPEN` [1]; `ERR` [0]. -/
def State.status (s : State) : Word :=
  (0 : BitVec 35) ++ s.prec ++ s.firstErr ++ s.lastErr ++ (0 : BitVec 4) ++ BitVec.ofBool s.configured
    ++ BitVec.ofBool s.dvalid ++ BitVec.ofBool s.hopen ++ BitVec.ofBool s.err

/-- `CTRL` as it reads (R23): bit 0 is `IE`, bits [63:1] are 0. -/
def State.ctrl (s : State) : Word := (0 : BitVec 63) ++ BitVec.ofBool s.ie

/-- A write of `CTRL`: `IE <- v[0]`, the other bits are ignored (R23). -/
def State.writeCtrl (s : State) (v : Word) : State := { s with ie := v.getLsbD 0 }

/-- The interrupt output `irq = ERR & IE` (R229). -/
def State.irq (s : State) : Bool := s.err && s.ie

end Sys2Proof.Machine
end

