-- ==== Sys2Proof/Machine/Bus.lean ====
section
/-! DEFINITION. The register window (R20 to R34) and the bus (R50 to R59): which accesses are admitted, what
a read answers, what a write does, and the execution of a command word (R70). -/

namespace Sys2Proof.Machine

/-- The bus registers of the window, by name (R20). -/
inductive BusReg where
  | id | ctrl | status | cmd | data0 | data1 | digestHi | digestLo | result | estZ | estInfo | hlen | alpha | param
  deriving DecidableEq, Repr

/-- The offset of a bus register (10_state.md section 2; R79). -/
def BusReg.offset : BusReg → Nat
  | .id => 0x00
  | .ctrl => 0x08
  | .status => 0x10
  | .cmd => 0x18
  | .data0 => 0x20
  | .data1 => 0x28
  | .digestHi => 0x30
  | .digestLo => 0x38
  | .result => 0x40
  | .estZ => 0x48
  | .estInfo => 0x50
  | .hlen => 0x58
  | .alpha => 0x60
  | .param => 0x68

/-- The bus registers in the order of the map. -/
def busRegs : List BusReg :=
  [.id, .ctrl, .status, .cmd, .data0, .data1, .digestHi, .digestLo, .result, .estZ, .estInfo, .hlen, .alpha, .param]

/-- The bus register at an offset; the offsets 0x70 to 0xF8 are reserved and hold none (R34). -/
def busRegAt (off : Nat) : Option BusReg := busRegs.find? (fun r => r.offset == off)

/-- `ID` (R22). -/
def idWord : Word := 0x0007000143594C4C

/-- `PARAM` (R33): bits [31:0] `HASH_SEED`, bits [33:32] `UPD_BIT_OFFSET / 32`, the rest 0. -/
def State.paramWord (s : State) : Word := (0 : BitVec 30) ++ BitVec.ofNat 2 s.params.updWord.val ++ s.params.hashSeed

/-- What a read of a bus register returns (R22 to R33). -/
def State.readReg (s : State) : BusReg → Word
  | .id => idWord
  | .ctrl => s.ctrl
  | .status => s.status
  | .cmd => 0
  | .data0 => s.data0
  | .data1 => s.data1
  | .digestHi => s.digestHi
  | .digestLo => s.digestLo
  | .result => s.result
  | .estZ => s.estZ
  | .estInfo => s.estInfo
  | .hlen => s.hlen
  | .alpha => s.alphaView
  | .param => s.paramWord

/-- What an admitted read at an offset returns: reserved offsets read 0 (R34, R51). -/
def State.readWindow (s : State) (off : Nat) : Word :=
  match busRegAt off with
  | some r => s.readReg r
  | none => 0

/-- A write of the word `c` to `CMD` (R25, R70): the command it encodes, or `E_ILLEGAL`. -/
def runCommand (c : Word) (s : State) : Host.Outcome State Fault Refusal :=
  match decode c with
  | .ok i => exec i s
  | .error _ => fail .illegal s

/-- `DATA0 <- v` (R26). -/
def State.setData0 (s : State) (v : Word) : State := { s with data0 := v }

/-- `DATA1 <- v` (R26). -/
def State.setData1 (s : State) (v : Word) : State := { s with data1 := v }

/-- The block answers an access (R51, R52). -/
def State.answer (s : State) (r : BusResponse) : State := { s with response := r }

/-- What a write of `v` to a bus register does (R22 to R34): `CTRL`, `DATA0`, `DATA1` are written, `CMD` executes,
and a write to a read-only register has no effect. -/
def writeReg (r : BusReg) (v : Word) (s : State) : Host.Outcome State Fault Refusal :=
  match r with
  | .ctrl => .next (s.writeCtrl v)
  | .cmd => runCommand v s
  | .data0 => .next (s.setData0 v)
  | .data1 => .next (s.setData1 v)
  | .id | .status | .digestHi | .digestLo | .result | .estZ | .estInfo | .hlen | .alpha | .param => .next s

/-- What an admitted write at an offset does: a write to a reserved offset has no effect (R34, R51). -/
def writeWindow (off : Nat) (v : Word) (s : State) : Host.Outcome State Fault Refusal :=
  match busRegAt off with
  | some r => writeReg r v s
  | none => .next s

/-- The offset of an access in the window, if the block admits it (R51, R55): 64 bits wide, inside
`BASE .. BASE + 255`, at a multiple of 8. -/
def admittedOffset (base addr bytes : Nat) : Option Nat :=
  if bytes = Config.busBytes ∧ base ≤ addr ∧ addr < base + Config.windowBytes ∧ (addr - base) % 8 = 0 then
    some (addr - base)
  else none

/-- What one event of the outside world does (R14, R51, R52, R250). An access that is not admitted gets a bus
error, a read the data 0, and has no other effect; that this is so outside the window too is DEDUCED (log 4). -/
def accept (e : HostEvent) (s : State) : Host.Outcome State Fault Refusal :=
  match e with
  | .read addr bytes =>
    match admittedOffset s.params.base addr bytes with
    | some off => .next (s.answer (.readData (s.readWindow off)))
    | none => .next (s.answer (.readError 0))
  | .write addr bytes v =>
    match admittedOffset s.params.base addr bytes with
    | some off => writeWindow off v (s.answer .writeDone)
    | none => .next (s.answer .writeError)
  | .reset => .next s.resetBlock

/-- Byte `k` of a word, little-endian (R53). -/
def byteOfWord (v : Word) (k : Nat) : Byte := v.extractLsb' (8 * k) 8

/-- The byte an interconnect carries at a bus byte address of the window: byte `k` of the register at `off` sits
at `BASE + off + k` (R53). -/
def State.windowByte (s : State) (addr : Nat) : Option Byte :=
  if s.params.base ≤ addr ∧ addr < s.params.base + Config.windowBytes then
    let off := addr - s.params.base
    some (byteOfWord (s.readWindow (off - off % 8)) (off % 8))
  else none

end Sys2Proof.Machine
end

