-- ==== Sys2Proof/Machine/Step.lean ====
section
/-! DEFINITION. One step of the machine (R14): the block takes the host's next access. -/

namespace Sys2Proof.Machine

/-- The accesses still to come once the first one is taken (R14). -/
def State.await (s : State) (rest : List HostEvent) : State := { s with pending := rest }

/-- One step: the first pending event takes effect (R14, R59). With none pending the block is idle and nothing
changes (R233, R237; log 3). -/
def step (s : State) : Host.Outcome State Fault Refusal :=
  match s.pending with
  | [] => .next s
  | e :: rest => accept e (s.await rest)

/-- The state with the command word `w` (its low `nbits` bits, the rest 0) as the host's next access: a 64-bit
write to `CMD` (R70; log 3). -/
def State.withFetchWord (s : State) (nbits w : Nat) : State :=
  { s with
    pending := .write (s.params.base + BusReg.offset .cmd) Config.busBytes (BitVec.ofNat 64 (w % 2 ^ nbits)) :: s.pending }

end Sys2Proof.Machine
end

