-- ==== Sys2Proof/Machine/HostProcedures.lean ====
section
/-! DEFINITION. What the spec says the host does with the block: the access and command lines of R79, the
macros of R80 (`HASHB`, `ADDB`, `MERGE`, `RESTORE`, `SNAPSHOT`), the snapshot and its equality (R193 to R195), and
the precision rule R139. The block executes none of this: a macro is a list of accesses for it. -/

namespace Sys2Proof.Machine

/-! ### Lines of a host program (R78, R79) -/

/-- `WR REG, v` (R79), for a block at `base`. -/
def wr (base : Nat) (r : BusReg) (v : Word) : HostEvent := .write (base + r.offset) Config.busBytes v

/-- `RD REG` (R79). -/
def rd (base : Nat) (r : BusReg) : HostEvent := .read (base + r.offset) Config.busBytes

/-- A command line stands for `BusWrite(0x18, c)` with `c` its encoding (R78). -/
def cmd (base : Nat) (i : Instr) : HostEvent := wr base .cmd (encode i)

/-! ### The macros (R80) -/

/-- The lines of `HASHB` for the `b`-th whole block: `WR DATA0`, `WR DATA1`, `HBLOCK` (R80). -/
def blockLines (base : Nat) (bytes : List Byte) (b : Nat) : List HostEvent :=
  [wr base .data0 (groupWords bytes b).1, wr base .data1 (groupWords bytes b).2, cmd base .hblock]

/-- The lines of `HASHB` for the whole blocks (R80). -/
def blocksLines (base : Nat) (bytes : List Byte) : List HostEvent :=
  (List.range (bytes.length / 16)).flatMap (blockLines base bytes)

/-- The lines of `HASHB` for the tail of `r = L mod 16` bytes: `WR DATA0` if `r > 0`, `WR DATA1` if `r > 8` (R80). -/
def tailLines (base : Nat) (bytes : List Byte) : List HostEvent :=
  let t := groupWords bytes (bytes.length / 16)
  (if 0 < bytes.length % 16 then [wr base .data0 t.1] else [])
    ++ (if 8 < bytes.length % 16 then [wr base .data1 t.2] else [])

/-- `HASHB s`, or `ADDB s` with `add` (R80). -/
def hashLines (base : Nat) (bytes : List Byte) (add : Bool) : List HostEvent :=
  cmd base .hinit :: (blocksLines base bytes ++ tailLines base bytes
    ++ [cmd base (.hfinal (bytes.length % 16) add)])

/-- `RMAX i, R2[i], p2` for the entries of a list, the first of them at index `i` (R80). -/
def mergeFrom (base p2 : Nat) (i : Nat) : List Nat → List HostEvent
  | [] => []
  | v :: vs => cmd base (.rmax i v p2) :: mergeFrom base p2 (i + 1) vs

/-- `MERGE (p2, R2)` (R80, R192). -/
def mergeLines (base p2 : Nat) (entries : List Nat) : List HostEvent := mergeFrom base p2 0 entries

/-- `RESTORE (p, R)` (R80, R194). -/
def restoreLines (base p : Nat) (entries : List Nat) : List HostEvent :=
  cmd base (.einit p) :: mergeLines base p entries

/-- `SNAPSHOT` of a block with `m` addressable entries (R80, R193). -/
def snapshotLines (base m : Nat) : List HostEvent :=
  [rd base .status, rd base .alpha]
    ++ (List.range m).flatMap (fun i => [cmd base (.rread i), rd base .result])

/-! ### What the host sees -/

/-- The answers to the next `n` events, in order. -/
def responses : Nat → State → List BusResponse
  | 0, _ => []
  | n + 1, s =>
    match step s with
    | .next t => t.response :: responses n t
    | .fault _ => []
    | .refused _ => []

/-! ### Snapshot and equality (R134, R193, R195) -/

/-- The source's snapshot: precision, alpha (Q0.32), `m` and the entries (R193). -/
structure Snapshot where
  precision : Nat
  alpha : Word
  m : Nat
  registers : List Entry
  deriving DecidableEq, Repr

/-- The snapshot that the host reads of a configured block (R134, R193). -/
def State.snapshot (s : State) : Snapshot where
  precision := s.p
  alpha := s.alphaView
  m := s.m
  registers := (List.range s.m).map s.reg

/-- Equality of two estimators: precision, alpha, `m` and all addressable entries (R195). -/
def State.sameEstimator (s t : State) : Bool := s.snapshot == t.snapshot

/-! ### The host's precision rule (R139) -/

/-- The least `p` with `2^p ≥ (1.04 / e)^2`, for the relative error `e = num / den` with `0 < num < den` (R139):
with the right side rounded up to an integer `x`, it is the bit length of `x - 1`. -/
def hostPrecision (num den : Nat) : Nat :=
  bitlen (((104 * den) ^ 2 + (100 * num) ^ 2 - 1) / (100 * num) ^ 2 - 1)

/-- The precision the host gives to `EINIT`; none is the host's domain error (R139). -/
def hostEinit (num den : Nat) : Option Nat :=
  let p := hostPrecision num den
  if Config.pMin ≤ p ∧ p ≤ Config.pMax then some p else none

end Sys2Proof.Machine
end

