-- ==== Sys2Proof/Safety.lean ====
section
/-! DEFINITION. The terms that statements about the machine use: the invariant of the reachable states
(R40), the error codes a command can raise (R222), what a host can observe (R42, R251), and the runs of the
machine. -/

namespace Sys2Proof.Machine

/-- What holds in every reachable state (R40, and what R24 to R38 say of single fields). -/
structure State.Inv (s : State) : Prop where
  /-- `P` is 0 or 4..16 (R37, R40). -/
  precLegal : s.p = 0 ∨ (Config.pMin ≤ s.p ∧ s.p ≤ Config.pMax)
  /-- The entries are held in canonical form. -/
  regsCanonical : RegFile.Canonical s.regs
  /-- No entry at index `m` or above has been written since the last `EINIT` (R36). -/
  regsAddressable : ∀ e ∈ s.regs, s.configured = true ∧ e.1 < s.m
  /-- `ERR = 0` implies `FIRSTERR = 0` (R40). -/
  noErrNoFirst : s.err = false → s.firstErr = 0
  /-- `ERR = 1` implies `FIRSTERR != 0` (R40). -/
  errFirst : s.err = true → s.firstErr ≠ 0
  /-- `LASTERR` is one of the codes of R221, and not 0 only while `ERR = 1` (R24, R39). -/
  lastErrLegal : s.lastErr.toNat ≤ 7 ∧ (s.lastErr ≠ 0 → s.err = true)
  /-- `FIRSTERR` is one of the codes of R221. -/
  firstErrLegal : s.firstErr.toNat ≤ 7
  /-- Before the first `HFINAL` since reset the digest registers are 0 (R27). -/
  noDigest : s.dvalid = false → s.digestHi = 0 ∧ s.digestLo = 0
  /-- `EST_Z` is below `2^49` (R29). -/
  estZBound : s.estZ.toNat < 2 ^ 49
  /-- `EST_INFO` is a zero count up to 65536 with a region from 0 to 2 (R30). -/
  estInfoLegal : ∃ v r, v ≤ 65536 ∧ r ≤ 2 ∧ s.estInfo = BitVec.ofNat 64 (v + r * 2 ^ 24)
  /-- `RESULT` is below `2^62` (R28, R175). -/
  resultBound : s.result.toNat < 2 ^ 62

/-- The error codes a decoded command can raise (R222); an illegal word raises `E_ILLEGAL` before that. -/
def possibleErrors : Instr → List ErrCode
  | .nop => []
  | .hinit => []
  | .hblock => [.seq]
  | .hfinal _ add => if add then [.noCfg, .seq] else [.seq]
  | .einit _ => [.domain]
  | .rupd => [.noCfg, .seq]
  | .rmax _ _ _ => [.noCfg, .prec, .index, .value]
  | .rread _ => [.noCfg, .index]
  | .card => [.noCfg, .domain]
  | .rank _ => [.domain]
  | .alpha _ => [.domain]
  | .clrerr => []

/-- Two states that no sequence of accesses can tell apart (R35, R36, R42, R251): they agree on everything but the
accumulators while no hash is open, the entries that are not addressable, and the model's counters. -/
structure SameObservable (s t : State) : Prop where
  data0 : s.data0 = t.data0
  data1 : s.data1 = t.data1
  digestHi : s.digestHi = t.digestHi
  digestLo : s.digestLo = t.digestLo
  result : s.result = t.result
  estZ : s.estZ = t.estZ
  estInfo : s.estInfo = t.estInfo
  hlen : s.hlen = t.hlen
  hopen : s.hopen = t.hopen
  dvalid : s.dvalid = t.dvalid
  prec : s.prec = t.prec
  err : s.err = t.err
  lastErr : s.lastErr = t.lastErr
  firstErr : s.firstErr = t.firstErr
  ie : s.ie = t.ie
  params : s.params = t.params
  pending : s.pending = t.pending
  response : s.response = t.response
  accumulators : s.hopen = true → s.h1 = t.h1 ∧ s.h2 = t.h2
  entries : s.configured = true → ∀ i, i < s.m → s.reg i = t.reg i

/-- `t` is the state after `n` steps from `s`. -/
def RunsTo (n : Nat) (s t : State) : Prop := Sys2Proof.core.run n s = .next t

/-- The words with the opcode of `op` that have one of the bits `reserved` set complete with `E_ILLEGAL` and
nothing else (R75, R77, and the first check of every command rule). -/
def IllegalWhenReserved (op : Opcode) (reserved : Word) : Prop :=
  ∀ (c : Word) (s : State), c &&& 0xFF = op.code → c &&& reserved ≠ 0 →
    runCommand c s = .next (s.errorCompletion .illegal)

end Sys2Proof.Machine
end

