-- ==== Sys2Proof/Certificates/Slice0/Obligations.lean ====
section
/-! DEFINITION. The statements about the model, for the provers: each `Obligations.<Name>` formalises numbered
rules of the spec, named in its docstring. -/

open Sys2Proof
open Sys2Proof.Machine

/-! ### The command word -/

/-- R81: the encoding examples, in both directions, and the illegal examples. -/
def Obligations.EncodingExamplesHold : Prop :=
  (∀ e ∈ [(Instr.nop, (0x0000000000000000 : Word)), (.hinit, 0x01), (.hblock, 0x02), (.hfinal 5 false, 0x0503),
      (.hfinal 5 true, 0x1503), (.hfinal 11 false, 0x0B03), (.einit 4, 0x0410), (.einit 9, 0x0910), (.rupd, 0x11),
      (.rmax 3 7 5, 0x0000000700030512), (.rread 3, 0x0000000000030013), (.card, 0x14), (.rank 32, 0x2020),
      (.alpha 9, 0x0921), (.clrerr, 0x30)],
    encode e.1 = e.2 ∧ decode e.2 = .ok e.1) ∧
  (∀ c ∈ [(0x0000000000002003 : Word), 0x0001000000000001, 0x04, 0x0000000000010014], ∀ i, decode c ≠ .ok i)

/-- R71, R73: every well-formed command is one word that decodes to it, with every operand value. -/
def Obligations.DecodeOfEncodeIsIdentity : Prop :=
  ∀ i : Instr, i.WellFormed → decode (encode i) = .ok i

/-- R73, R75, R77: a word decodes to a command only if it is that command's encoding, which is well formed; so no
two words mean the same command and no reserved bit is ignored. -/
def Obligations.DecodedWordIsItsEncoding : Prop :=
  ∀ (c : Word) (i : Instr), decode c = .ok i → i.WellFormed ∧ encode i = c

/-- R77: a word is legal exactly when some row of the table admits it, at most one row does, and the command has
that row's opcode. -/
def Obligations.AtMostOneRowAdmitsWord : Prop :=
  (∀ (c : Word), ∀ r ∈ opcodeTable, ∀ q ∈ opcodeTable, r.admits c = true → q.admits c = true → r = q) ∧
  (∀ (c : Word) (i : Instr), decode c = .ok i → i.opcode.row ∈ opcodeTable ∧ i.opcode.row.admits c = true) ∧
  (∀ (c : Word), ∀ r ∈ opcodeTable, r.admits c = true → decode c = .ok (r.op.withOperands c))

/-- R75, R76: a word whose opcode is in no row, and a word with an assigned opcode and a reserved bit that is not 0,
are illegal, each under its own name; the unassigned opcode values are 0x04..0x0F, 0x15..0x1F, 0x22..0x2F and
0x31..0xFF. -/
def Obligations.IllegalWordsAreRefusedByName : Prop :=
  (∀ (c : Word), (∀ r ∈ opcodeTable, c &&& 0xFF ≠ r.matchWord) → decode c = .error .unassignedOpcode) ∧
  (∀ (c : Word), ∀ r ∈ opcodeTable, c &&& 0xFF = r.matchWord → c &&& r.mask ≠ r.matchWord →
    decode c = .error .reservedBit) ∧
  (∀ (c : Word),
    (0x04 ≤ field c 7 0 ∧ field c 7 0 ≤ 0x0F) ∨ (0x15 ≤ field c 7 0 ∧ field c 7 0 ≤ 0x1F) ∨
      (0x22 ≤ field c 7 0 ∧ field c 7 0 ≤ 0x2F) ∨ 0x31 ≤ field c 7 0 →
    decode c = .error .unassignedOpcode)

/-! ### A step, and the bus -/

/-- R14, R70: when the host's next access is a write to `CMD` of a word that decodes to `i`, the step is `exec i` at
the state with the access taken and answered; an illegal word completes with `E_ILLEGAL` and changes nothing
else. What the step adds around `exec` (the access leaves the queue, the answer is recorded) is the model's
host interface, log 3. -/
def Obligations.StepRunsDecodedCommand : Prop :=
  ∀ (s : State) (c : Word) (rest : List HostEvent),
    s.pending = .write (s.params.base + 0x18) 8 c :: rest →
    (∀ i, decode c = .ok i → step s = exec i { s with pending := rest, response := .writeDone }) ∧
    (∀ e, decode c = .error e →
      step s = .next (State.errorCompletion { s with pending := rest, response := .writeDone } .illegal))

/-- R52: an access that is not 64 bits wide, or whose offset is not a multiple of 8, gets a bus error, a read the
data 0, and has no other effect. -/
def Obligations.RefusedAccessHasNoEffect : Prop :=
  ∀ (s : State) (rest : List HostEvent) (off bytes : Nat) (v : Word),
    off < 256 → (bytes ≠ 8 ∨ off % 8 ≠ 0) →
    (s.pending = .read (s.params.base + off) bytes :: rest →
      step s = .next { s with pending := rest, response := .readError 0 }) ∧
    (s.pending = .write (s.params.base + off) bytes v :: rest →
      step s = .next { s with pending := rest, response := .writeError })

/-- R55, R68: an access outside the 256 bytes at `BASE`, such as one to another block's window, changes nothing of
this block. That such an access is answered by a bus error with data 0 is DEDUCED (log 4). -/
def Obligations.AccessOutsideWindowHasNoEffect : Prop :=
  ∀ (s : State) (rest : List HostEvent) (addr bytes : Nat) (v : Word),
    (addr < s.params.base ∨ s.params.base + 256 ≤ addr) →
    (s.pending = .read addr bytes :: rest →
      step s = .next { s with pending := rest, response := .readError 0 }) ∧
    (s.pending = .write addr bytes v :: rest →
      step s = .next { s with pending := rest, response := .writeError })

/-- R51, R58 with the map of 10_state.md section 2 (R22 to R33): an admitted read answers the value of the register at
its offset and changes nothing else. -/
def Obligations.ReadAnswersRegisterWithoutSideEffect : Prop :=
  ∀ (s : State) (rest : List HostEvent) (off : Nat) (v : Word),
    (off, v) ∈ [(0x00, 0x0007000143594C4C), (0x08, s.ctrl), (0x10, s.status), (0x18, 0), (0x20, s.data0),
      (0x28, s.data1), (0x30, s.digestHi), (0x38, s.digestLo), (0x40, s.result), (0x48, s.estZ), (0x50, s.estInfo),
      (0x58, s.hlen), (0x60, s.alphaView), (0x68, s.paramWord)] →
    s.pending = .read (s.params.base + off) 8 :: rest →
    step s = .next { s with pending := rest, response := .readData v }

/-- R34: a reserved offset reads 0 and ignores writes, and a write to a read-only register has no effect. -/
def Obligations.ReservedAndReadOnlyOffsetsIgnoreWrites : Prop :=
  ∀ (s : State) (rest : List HostEvent) (off : Nat) (v : Word),
    (0x70 ≤ off → off ≤ 0xF8 → off % 8 = 0 → s.pending = .read (s.params.base + off) 8 :: rest →
      step s = .next { s with pending := rest, response := .readData 0 }) ∧
    ((0x70 ≤ off ∧ off ≤ 0xF8 ∧ off % 8 = 0) ∨
        off ∈ [0x00, 0x10, 0x30, 0x38, 0x40, 0x48, 0x50, 0x58, 0x60, 0x68] →
      s.pending = .write (s.params.base + off) 8 v :: rest →
      step s = .next { s with pending := rest, response := .writeDone })

/-- R23, R26, R58: a write to `CTRL` sets `IE` to bit 0 and ignores the rest, a write to `DATA0` or `DATA1` stores the
word, and each changes that register only. -/
def Obligations.HostWritesOneRegister : Prop :=
  ∀ (s : State) (rest : List HostEvent) (v : Word),
    (s.pending = .write (s.params.base + 0x08) 8 v :: rest →
      step s = .next { s with pending := rest, response := .writeDone, ie := v.getLsbD 0 }) ∧
    (s.pending = .write (s.params.base + 0x20) 8 v :: rest →
      step s = .next { s with pending := rest, response := .writeDone, data0 := v }) ∧
    (s.pending = .write (s.params.base + 0x28) 8 v :: rest →
      step s = .next { s with pending := rest, response := .writeDone, data1 := v })

/-- R53: the byte at bus address `BASE + off + k` is byte `k` of the register at `off`, bits `[8k+7 : 8k]`. -/
def Obligations.WindowIsLittleEndian : Prop :=
  ∀ (s : State) (off k : Nat), off % 8 = 0 → off < 256 → k < 8 →
    s.windowByte (s.params.base + off + k) = some ((s.readWindow off).extractLsb' (8 * k) 8)

/-! ### Views -/

/-- R24: the fields of `STATUS`, and the bits that are 0. -/
def Obligations.StatusFieldsAreAsMapped : Prop :=
  ∀ s : State,
    s.status.getLsbD 0 = s.err ∧ s.status.getLsbD 1 = s.hopen ∧ s.status.getLsbD 2 = s.dvalid ∧
    (s.status.getLsbD 3 = true ↔ s.prec ≠ 0) ∧ s.status.extractLsb' 4 4 = 0 ∧
    s.status.extractLsb' 8 8 = s.lastErr ∧ s.status.extractLsb' 16 8 = s.firstErr ∧
    s.status.extractLsb' 24 5 = s.prec ∧ s.status.extractLsb' 29 35 = 0

/-- R22, R23, R32, R33: the words that `ID`, `CTRL`, `ALPHA` and `PARAM` read as. -/
def Obligations.ConstantAndViewRegistersRead : Prop :=
  ∀ s : State,
    s.readReg .id = 0x0007000143594C4C ∧
    s.ctrl.getLsbD 0 = s.ie ∧ s.ctrl.extractLsb' 1 63 = 0 ∧
    (s.prec = 0 → s.alphaView = 0) ∧
    (∀ a, s.prec ≠ 0 → alphaRom s.p = some a → s.alphaView = a.setWidth 64) ∧
    s.paramWord.extractLsb' 0 32 = s.params.hashSeed ∧
    (s.paramWord.extractLsb' 32 2).toNat = s.params.updBitOffset / 32 ∧ s.paramWord.extractLsb' 34 30 = 0

/-- R229, R230: `irq = ERR & IE`; it is 1 after an error completion with `IE = 1`, 0 after `CLRERR`, 0 whenever
`IE = 0`, and 0 after reset. -/
def Obligations.InterruptIsErrAndEnable : Prop :=
  (∀ s : State, s.irq = true ↔ s.err = true ∧ s.ie = true) ∧
  (∀ (s : State) (e : ErrCode), (s.errorCompletion e).irq = s.ie) ∧
  (∀ s t : State, exec .clrerr s = .next t → t.irq = false) ∧
  (∀ (s : State) (v : Word), (s.writeCtrl v).irq = (s.err && v.getLsbD 0)) ∧
  (∀ s : State, s.resetBlock.irq = false) ∧ State.reset.irq = false

/-! ### Reset -/

/-- R251: what a host can observe after reset, and that until `HINIT` and `EINIT` the hash and estimator commands raise
`E_SEQ` (`E_NOCFG` for `HFINAL` with `ADD`, R112) and `E_NOCFG`. -/
def Obligations.ResetLeavesObservableStateZero : Prop :=
  let s := State.reset
  s.status = 0 ∧ s.alphaView = 0 ∧ s.data0 = 0 ∧ s.data1 = 0 ∧ s.digestHi = 0 ∧ s.digestLo = 0 ∧ s.result = 0 ∧
  s.estZ = 0 ∧ s.estInfo = 0 ∧ s.hlen = 0 ∧ s.ctrl = 0 ∧ s.irq = false ∧
  s.readReg .id = 0x0007000143594C4C ∧ s.paramWord = 0 ∧
  s.err = false ∧ s.lastErr = 0 ∧ s.firstErr = 0 ∧ s.hopen = false ∧ s.dvalid = false ∧ s.prec = 0 ∧ s.ie = false ∧
  exec .hblock s = .next (s.errorCompletion .seq) ∧
  (∀ r, exec (.hfinal r false) s = .next (s.errorCompletion .seq)) ∧
  (∀ r, exec (.hfinal r true) s = .next (s.errorCompletion .noCfg)) ∧
  exec .rupd s = .next (s.errorCompletion .noCfg) ∧
  (∀ i v ps, exec (.rmax i v ps) s = .next (s.errorCompletion .noCfg)) ∧
  (∀ i, exec (.rread i) s = .next (s.errorCompletion .noCfg)) ∧
  exec .card s = .next (s.errorCompletion .noCfg)

/-- R250: the reset input gives every piece of state the value of R42, whatever it held before. That the parameters and
the host's accesses to come stay is the model's host interface (log 2, log 5). -/
def Obligations.ResetInputRestoresResetState : Prop :=
  ∀ (s : State) (rest : List HostEvent), s.pending = .reset :: rest →
    ∃ t, step s = .next t ∧ t.pending = rest ∧ t.params = s.params ∧
      SameObservable t { State.reset with pending := rest, params := s.params }

/-! ### Control and errors -/

/-- R210: `NOP` completes with success and touches nothing but `LASTERR`; a word with its opcode and a bit of `c[63:8]`
set is illegal. -/
def Obligations.NopCompletes : Prop :=
  (∀ s : State, exec .nop s = .next { s with lastErr := 0 }) ∧ IllegalWhenReserved .nop 0xFFFFFFFFFFFFFF00

/-- R211: `CLRERR` clears `ERR`, `FIRSTERR` and `LASTERR` and nothing else; with a reserved bit set it is illegal and
clears nothing. -/
def Obligations.ClrerrCompletes : Prop :=
  (∀ s : State, exec .clrerr s = .next { s with err := false, firstErr := 0, lastErr := 0 }) ∧
  IllegalWhenReserved .clrerr 0xFFFFFFFFFFFFFF00

/-- R224: error completion with code `e` writes `LASTERR`, `FIRSTERR` if `ERR` was 0, and `ERR`, and nothing else. -/
def Obligations.ErrorCompletionWritesStatusOnly : Prop :=
  ∀ (s : State) (e : ErrCode),
    (s.err = false → s.errorCompletion e = { s with lastErr := e.code, firstErr := e.code, err := true }) ∧
    (s.err = true → s.errorCompletion e = { s with lastErr := e.code }) ∧
    1 ≤ e.code.toNat ∧ e.code.toNat ≤ 7

/-- R220, R224, R225, R227: every command ends in exactly one of two ways. It completes with success, `LASTERR = 0`
and `ERR` and `FIRSTERR` as they were (but for `CLRERR`); or with one error code of R222, and then the state is the
one before the command with the error completion. -/
def Obligations.CommandSucceedsOrChangesStatusOnly : Prop :=
  ∀ (i : Instr) (s : State),
    (∃ t, exec i s = .next t ∧ t.lastErr = 0 ∧ (i ≠ .clrerr → t.err = s.err ∧ t.firstErr = s.firstErr)) ∨
    (∃ e ∈ possibleErrors i, exec i s = .next (s.errorCompletion e))

/-- R226, R255: the machine never stops: every state has a next state, whatever `ERR` is and whatever the host does. -/
def Obligations.EveryStepHasNextState : Prop :=
  ∀ s : State, ∃ t, step s = .next t

/-- R223 for `RMAX`, the command with the most checks: the code reported is the lowest of those that apply. -/
def Obligations.RmaxReportsLowestCode : Prop :=
  ∀ (i v ps : Nat) (s : State),
    let applies : ErrCode → Prop := fun e =>
      (e = .noCfg ∧ s.prec = 0) ∨ (e = .prec ∧ ps ≠ s.p) ∨ (e = .index ∧ 2 ^ s.p ≤ i) ∨ (e = .value ∧ 31 < v)
    ∀ e, applies e → (∀ f, applies f → e.code.toNat ≤ f.code.toNat) →
      exec (.rmax i v ps) s = .next (s.errorCompletion e)

/-! ### The hash engine -/

/-- R110: `HINIT` completes from every state; a reserved bit is illegal. -/
def Obligations.HinitCompletes : Prop :=
  (∀ s : State, exec .hinit s = .next { s with
    h1 := s.params.hashSeed.setWidth 64, h2 := s.params.hashSeed.setWidth 64, hlen := 0, hopen := true, lastErr := 0 }) ∧
  IllegalWhenReserved .hinit 0xFFFFFFFFFFFFFF00

/-- R111: with a hash open `HBLOCK` absorbs the block in `DATA0`, `DATA1` and adds 16 to `HLEN`; with none open it
raises `E_SEQ`; a reserved bit is illegal. -/
def Obligations.HblockCompletes : Prop :=
  (∀ s : State, s.hopen = true → exec .hblock s = .next { s with
    h1 := (blockStep s.h1 s.h2 s.data0 s.data1).1
    h2 := (blockStep s.h1 s.h2 s.data0 s.data1).2
    hlen := s.hlen + 16
    lastErr := 0 }) ∧
  (∀ s : State, s.hopen = false → exec .hblock s = .next (s.errorCompletion .seq)) ∧
  IllegalWhenReserved .hblock 0xFFFFFFFFFFFFFF00

/-- R112: with a hash open `HFINAL r` writes the digest of the tail and finalisation, the total length, `DVALID` and
`HOPEN`; with `ADD` (which needs an estimator) it also raises the one entry that the new digest selects to the
maximum of its old value and the digest's rank. Every other readable register and every other REG entry stays. The
accumulators afterwards are unspecified (log 1). `ADD` with no estimator raises `E_NOCFG`, whether or not a hash is open;
else no open hash raises `E_SEQ`; an error writes nothing else. A bit of `c[63:13]` is illegal. -/
def Obligations.HfinalCompletes : Prop :=
  (∀ (r : Nat) (add : Bool) (s : State), s.Inv → r < 16 → s.hopen = true → (add = true → s.prec ≠ 0) →
    ∃ t, exec (.hfinal r add) s = .next t ∧
      (let u := tailStep s.h1 s.h2 s.data0 s.data1 r
       let d := finalStep u.1 u.2 (s.hlen + BitVec.ofNat 64 r)
       let w := updateWord (d.1 ++ d.2) s.params.updBitOffset
       t.digestHi = d.1 ∧ t.digestLo = d.2 ∧
       (add = false → ∀ j, t.reg j = s.reg j) ∧
       (add = true →
        (t.reg (updateIndex w s.p)).toNat = max (s.reg (updateIndex w s.p)).toNat (updateRank w s.p) ∧
        ∀ j, j ≠ updateIndex w s.p → t.reg j = s.reg j)) ∧
      t.hlen = s.hlen + BitVec.ofNat 64 r ∧ t.dvalid = true ∧ t.hopen = false ∧ t.lastErr = 0 ∧
      t.err = s.err ∧ t.firstErr = s.firstErr ∧ t.prec = s.prec ∧ t.resets = s.resets ∧ t.ie = s.ie ∧
      t.data0 = s.data0 ∧ t.data1 = s.data1 ∧ t.result = s.result ∧ t.estZ = s.estZ ∧ t.estInfo = s.estInfo ∧
      t.params = s.params ∧ t.pending = s.pending ∧ t.response = s.response) ∧
  (∀ (r : Nat) (s : State), s.prec = 0 → exec (.hfinal r true) s = .next (s.errorCompletion .noCfg)) ∧
  (∀ (r : Nat) (add : Bool) (s : State), (add = true → s.prec ≠ 0) → s.hopen = false →
    exec (.hfinal r add) s = .next (s.errorCompletion .seq)) ∧
  IllegalWhenReserved .hfinal 0xFFFFFFFFFFFFE000

/-- R113: `HFINAL r, ADD` is `HFINAL r` followed by `RUPD`, in one command; with no estimator it raises `E_NOCFG` and changes
neither the digest nor an entry. -/
def Obligations.HfinalAddIsHfinalThenRupd : Prop :=
  (∀ (r : Nat) (s t : State), s.prec ≠ 0 → s.hopen = true → exec (.hfinal r false) s = .next t →
    exec (.hfinal r true) s = exec .rupd t) ∧
  (∀ (r : Nat) (s : State), s.prec = 0 → ∃ t, exec (.hfinal r true) s = .next t ∧ t.lastErr = 0x02 ∧
    t.digestHi = s.digestHi ∧ t.digestLo = s.digestLo ∧ ∀ j, t.reg j = s.reg j)

/-- R56: stream byte `j` of a 16-byte group is byte lane `j` of the words that `HASHB` writes to `DATA0` and `DATA1`. -/
def Obligations.GroupWordsPackStreamBytes : Prop :=
  ∀ (bytes : List Byte) (b j : Nat), j < 16 →
    streamByte (groupWords bytes b).1 (groupWords bytes b).2 j = bytes.getD (16 * b + j) 0

/-- R103: tail bytes at and beyond `r` do not affect the tail step. -/
def Obligations.TailBytesBeyondLengthAreIgnored : Prop :=
  ∀ (h1 h2 d0 d1 e0 e1 : Word) (r : Nat), r < 16 →
    (∀ j, j < r → streamByte d0 d1 j = streamByte e0 e1 j) →
    tailStep h1 h2 d0 d1 r = tailStep h1 h2 e0 e1 r

/-- R101, R104: the key mixes and the avalanche function are bijections of 64-bit words that map 0 to 0. -/
def Obligations.MixingFunctionsAreBijections : Prop :=
  Function.Bijective mixK1 ∧ Function.Bijective mixK2 ∧ Function.Bijective fmix64 ∧
  mixK1 0 = 0 ∧ mixK2 0 = 0 ∧ fmix64 0 = 0

/-- R106: for every byte stream, the access sequence of `HASHB` (R80), started in any state, leaves in `DIGEST_HI` and
`DIGEST_LO` the MurmurHash3 x64-128 of the stream with the instance's seed, and `HLEN`, `DVALID` and `HOPEN` as after a
finished hash. It holds with any accesses after the sequence, and it raises no error. -/
def Obligations.HashSequenceComputesMurmur3 : Prop :=
  ∀ (s : State) (bytes : List Byte) (rest : List HostEvent),
    s.pending = hashLines s.params.base bytes false ++ rest →
    ∃ t, RunsTo (hashLines s.params.base bytes false).length s t ∧
      t.digestHi = (murmur3 s.params.hashSeed bytes).1 ∧ t.digestLo = (murmur3 s.params.hashSeed bytes).2 ∧
      t.hlen = BitVec.ofNat 64 bytes.length ∧ t.dvalid = true ∧ t.hopen = false ∧
      t.lastErr = 0 ∧ t.err = s.err ∧ t.firstErr = s.firstErr ∧
      t.prec = s.prec ∧ t.regs = s.regs ∧ t.resets = s.resets ∧ t.pending = rest

/-! ### Configuration, rank and register update -/

/-- R130, R131: each entry of the alpha table is `alpha(p) * 2^32` rounded to nearest, for the exact `alpha(p)`, and
there is no entry outside 4..16. -/
def Obligations.AlphaRomIsRoundedAlpha : Prop :=
  (alphaRom 4 = some (BitVec.ofNat 32 ((2 * 673 * 2 ^ 32 + 1000) / 2000))) ∧
  (alphaRom 5 = some (BitVec.ofNat 32 ((2 * 697 * 2 ^ 32 + 1000) / 2000))) ∧
  (alphaRom 6 = some (BitVec.ofNat 32 ((2 * 709 * 2 ^ 32 + 1000) / 2000))) ∧
  (∀ p, 7 ≤ p → p ≤ 16 →
    alphaRom p = some (BitVec.ofNat 32
      ((2 * (7213 * 2 ^ p) * 2 ^ 32 + 10 * (1000 * 2 ^ p + 1079)) / (2 * (10 * (1000 * 2 ^ p + 1079)))))) ∧
  (∀ p, p < 4 ∨ 16 < p → alphaRom p = none)

/-- R132: for `p` in 4..16 `EINIT p` sets `P` and makes all 65536 entries 0, and leaves the hash engine, the result
registers and everything else as they were; outside 4..16 it raises `E_DOMAIN`; a reserved bit is illegal. -/
def Obligations.EinitCompletes : Prop :=
  (∀ (p : Nat) (s : State), 4 ≤ p → p ≤ 16 →
    ∃ t, exec (.einit p) s = .next t ∧ t.p = p ∧ (∀ i, i < 65536 → t.reg i = 0) ∧ t.lastErr = 0 ∧
      t = { s with prec := t.prec, regs := t.regs, lastErr := 0 }) ∧
  (∀ (p : Nat) (s : State), p < 4 ∨ 16 < p → exec (.einit p) s = .next (s.errorCompletion .domain)) ∧
  IllegalWhenReserved .einit 0xFFFFFFFFFFFFE000

/-- R133: for `p` in 4..16 `ALPHA p` puts the table's constant into `RESULT` and changes nothing else; outside it raises
`E_DOMAIN`; it needs no estimator; a reserved bit is illegal. -/
def Obligations.AlphaCompletes : Prop :=
  (∀ (p : Nat) (s : State), 4 ≤ p → p ≤ 16 →
    ∃ a, alphaRom p = some a ∧ exec (.alpha p) s = .next { s with result := a.setWidth 64, lastErr := 0 }) ∧
  (∀ (p : Nat) (s : State), p < 4 ∨ 16 < p → exec (.alpha p) s = .next (s.errorCompletion .domain)) ∧
  IllegalWhenReserved .alpha 0xFFFFFFFFFFFFE000

/-- R153: `RANK mb` puts `mb - bitlen(DATA0) + 1` into `RESULT` and changes nothing else when `DATA0 < 2^mb`, where
`bitlen` is the least `n` with `DATA0 < 2^n` (R9); otherwise it raises `E_DOMAIN`; a reserved bit is illegal. -/
def Obligations.RankCompletes : Prop :=
  (∀ (mb : Nat) (s : State), mb < 128 → s.data0.toNat < 2 ^ mb →
    ∃ n, s.data0.toNat < 2 ^ n ∧ (∀ k, s.data0.toNat < 2 ^ k → n ≤ k) ∧
      exec (.rank mb) s = .next { s with result := BitVec.ofNat 64 (mb - n + 1), lastErr := 0 }) ∧
  (∀ (mb : Nat) (s : State), mb < 128 → 2 ^ mb ≤ s.data0.toNat →
    exec (.rank mb) s = .next (s.errorCompletion .domain)) ∧
  IllegalWhenReserved .rank 0xFFFFFFFFFFFF8000

/-- R150, R157: the arithmetic rank and the leading-zero counter are equal for every operand and width, and the domain
error is exactly a value that does not fit. -/
def Obligations.RankEqualsLeadingZeroCounter : Prop :=
  ∀ w mb : Nat,
    (w < 2 ^ mb → rankOf w mb = some (1 + clz w mb) ∧ 1 ≤ 1 + clz w mb ∧ 1 + clz w mb ≤ mb + 1) ∧
    (2 ^ mb ≤ w → rankOf w mb = none)

/-- R151: for every digest, every parameter and every `P` in 4..16 the index is below `m`, the remainder fits `32 - P`
bits so that the rank never fails, and the rank is in `1 .. 33 - P`. -/
def Obligations.UpdateSliceIsInRange : Prop :=
  ∀ (d : BitVec 128) (q : Config.Params) (p : Nat), 4 ≤ p → p ≤ 16 →
    let w := updateWord d q.updBitOffset
    w = BitVec.ofNat 32 (d.toNat / 2 ^ q.updBitOffset) ∧
    updateIndex w p < 2 ^ p ∧ w.toNat = updateIndex w p + 2 ^ p * updateRemainder w p ∧
    rankOf (updateRemainder w p) (32 - p) = some (updateRank w p) ∧
    1 ≤ updateRank w p ∧ updateRank w p ≤ 33 - p

/-- R152, R154: with an estimator and a digest, `RUPD` raises the one entry that the digest selects to the maximum of
its old value and the digest's rank, and changes nothing else; without an estimator it raises `E_NOCFG`, else without
a digest `E_SEQ`; a reserved bit is illegal. -/
def Obligations.RupdCompletes : Prop :=
  (∀ s : State, s.Inv → s.prec ≠ 0 → s.dvalid = true →
    let w := updateWord (s.digestHi ++ s.digestLo) s.params.updBitOffset
    ∃ t, exec .rupd s = .next t ∧
      (t.reg (updateIndex w s.p)).toNat = max (s.reg (updateIndex w s.p)).toNat (updateRank w s.p) ∧
      (∀ j, j ≠ updateIndex w s.p → t.reg j = s.reg j) ∧
      t = { s with regs := t.regs, lastErr := 0 }) ∧
  (∀ s : State, s.prec = 0 → exec .rupd s = .next (s.errorCompletion .noCfg)) ∧
  (∀ s : State, s.prec ≠ 0 → s.dvalid = false → exec .rupd s = .next (s.errorCompletion .seq)) ∧
  IllegalWhenReserved .rupd 0xFFFFFFFFFFFFFF00

/-- R155: a register update twice with one digest is the update once, and updates with two digests commute. -/
def Obligations.RegisterUpdatesAreIdempotentAndCommute : Prop :=
  ∀ (s : State) (d e : BitVec 128), s.Inv → s.prec ≠ 0 →
    (s.registerUpdate d).registerUpdate d = s.registerUpdate d ∧
    (s.registerUpdate d).registerUpdate e = (s.registerUpdate e).registerUpdate d

/-! ### Merge and register read -/

/-- R190: `RMAX i, v, ps` with `ps = P`, `i < m` and `v ≤ 31` raises `REG[i]` to the maximum and changes nothing else;
otherwise it raises, in this order, `E_NOCFG`, `E_PREC`, `E_INDEX`, `E_VALUE`; a reserved bit is illegal. -/
def Obligations.RmaxCompletes : Prop :=
  (∀ (i v : Nat) (s : State), s.Inv → s.prec ≠ 0 → i < 2 ^ s.p → v ≤ 31 →
    ∃ t, exec (.rmax i v s.p) s = .next t ∧ (t.reg i).toNat = max (s.reg i).toNat v ∧
      (∀ j, j ≠ i → t.reg j = s.reg j) ∧ t = { s with regs := t.regs, lastErr := 0 }) ∧
  (∀ (i v ps : Nat) (s : State),
    (s.prec = 0 → exec (.rmax i v ps) s = .next (s.errorCompletion .noCfg)) ∧
    (s.prec ≠ 0 → ps ≠ s.p → exec (.rmax i v ps) s = .next (s.errorCompletion .prec)) ∧
    (s.prec ≠ 0 → ps = s.p → 2 ^ s.p ≤ i → exec (.rmax i v ps) s = .next (s.errorCompletion .index)) ∧
    (s.prec ≠ 0 → ps = s.p → i < 2 ^ s.p → 31 < v → exec (.rmax i v ps) s = .next (s.errorCompletion .value))) ∧
  IllegalWhenReserved .rmax 0xFFFF00000000E000

/-- R191: `RREAD i` with an estimator and `i < m` puts `REG[i]` into `RESULT` and changes nothing else; otherwise it raises
`E_NOCFG` or `E_INDEX` and keeps `RESULT`; a reserved bit is illegal. -/
def Obligations.RreadCompletes : Prop :=
  (∀ (i : Nat) (s : State), s.prec ≠ 0 → i < 2 ^ s.p →
    exec (.rread i) s = .next { s with result := (s.reg i).setWidth 64, lastErr := 0 }) ∧
  (∀ (i : Nat) (s : State),
    (s.prec = 0 → exec (.rread i) s = .next (s.errorCompletion .noCfg)) ∧
    (s.prec ≠ 0 → 2 ^ s.p ≤ i → exec (.rread i) s = .next (s.errorCompletion .index))) ∧
  IllegalWhenReserved .rread 0xFFFFFFFF0000FF00

/-- R192: `MERGE (p2, R2)` on a block of precision `p2`, with every value at most 31, raises every addressable entry to
the maximum of the two and changes nothing else that a host can read but `LASTERR`. -/
def Obligations.MergeSequenceIsRegisterwiseMaximum : Prop :=
  ∀ (s : State) (entries : List Nat) (rest : List HostEvent),
    s.Inv → s.prec ≠ 0 → entries.length = 2 ^ s.p → (∀ v ∈ entries, v ≤ 31) →
    s.pending = mergeLines s.params.base s.p entries ++ rest →
    ∃ t, RunsTo entries.length s t ∧
      (∀ i, i < 2 ^ s.p → (t.reg i).toNat = max (s.reg i).toNat (entries.getD i 0)) ∧
      t = { s with regs := t.regs, lastErr := 0, pending := rest, response := .writeDone }

/-- R192: `MERGE (p2, R2)` with another precision fails with `E_PREC` at every entry and changes no entry. -/
def Obligations.MergeOfOtherPrecisionChangesNoEntry : Prop :=
  ∀ (s : State) (p2 : Nat) (entries : List Nat) (rest : List HostEvent),
    s.prec ≠ 0 → p2 ≠ s.p → p2 < 32 → entries ≠ [] → entries.length ≤ 65536 → (∀ v ∈ entries, v < 65536) →
    s.pending = mergeLines s.params.base p2 entries ++ rest →
    ∃ t, RunsTo entries.length s t ∧ t.lastErr = 0x04 ∧ t.err = true ∧
      t = { s.errorCompletion .prec with pending := rest, response := .writeDone }

/-- R194, R195, R197: `RESTORE` of the snapshot of a configured block `s`, on a block in any state, gives a block equal
to `s` by R195. -/
def Obligations.RestoreOfSnapshotIsEqual : Prop :=
  ∀ (s t : State) (rest : List HostEvent), s.Inv → s.prec ≠ 0 →
    t.pending = restoreLines t.params.base s.p (s.snapshot.registers.map BitVec.toNat) ++ rest →
    ∃ u, RunsTo (2 ^ s.p + 1) t u ∧ u.sameEstimator s = true ∧ u.lastErr = 0 ∧ u.pending = rest ∧
      u.err = t.err ∧ u.firstErr = t.firstErr

/-- R193: the `SNAPSHOT` reads of a configured block answer `STATUS`, `ALPHA` and every addressable entry. -/
def Obligations.SnapshotReadsEveryEntry : Prop :=
  ∀ (s : State) (rest : List HostEvent), s.prec ≠ 0 → s.p ≤ 16 →
    s.pending = snapshotLines s.params.base s.m ++ rest →
    responses (2 + 2 * s.m) s = .readData s.status :: .readData s.alphaView ::
      (List.range s.m).flatMap (fun i => [.writeDone, .readData ((s.reg i).setWidth 64)])

/-! ### The cardinality estimate -/

/-- R171, R172, R173, R176: `CARD` computes the exact sums over the addressable entries and the scaled numerator,
selects the region by the integer comparisons, raises `E_DOMAIN` exactly in the case of R178 and otherwise writes
`RESULT`, `EST_Z` and `EST_INFO` and nothing else; without an estimator it raises `E_NOCFG`; a reserved bit is
illegal. -/
def Obligations.CardCompletes : Prop :=
  (∀ s : State, s.prec ≠ 0 →
    let m := 2 ^ s.p
    let zi := ∑ i ∈ Finset.range m, 2 ^ (32 - (s.reg i).toNat)
    let v := ((Finset.range m).filter (fun i => s.reg i = 0)).card
    let n := alphaInt s.p * 2 ^ (2 * s.p)
    let completes : Region → Prop := fun r =>
      exec .card s = .next { s with
        result := BitVec.ofNat 64 (estimate r n zi v m)
        estZ := BitVec.ofNat 64 zi
        estInfo := BitVec.ofNat 64 v ||| (BitVec.ofNat 64 r.code <<< 24)
        lastErr := 0 }
    (2 * n ≤ 5 * m * zi → 0 < v → completes .linear) ∧
    (2 * n ≤ 5 * m * zi → v = 0 → completes .raw) ∧
    (5 * m * zi < 2 * n → 30 * n ≤ 2 ^ 32 * zi → completes .raw) ∧
    (5 * m * zi < 2 * n → 2 ^ 32 * zi < 30 * n → n < 2 ^ 32 * zi → completes .large) ∧
    (5 * m * zi < 2 * n → 2 ^ 32 * zi < 30 * n → 2 ^ 32 * zi ≤ n →
      exec .card s = .next (s.errorCompletion .domain))) ∧
  (∀ s : State, s.prec = 0 → exec .card s = .next (s.errorCompletion .noCfg)) ∧
  IllegalWhenReserved .card 0xFFFFFFFFFFFFFF00

/-- R174: in each region the estimate is the exact real value of the formula times `2^24`, truncated. -/
def Obligations.EstimateIsExactTruncation : Prop :=
  ∀ n zi v m : Nat, 0 < zi → 0 < m →
    estimate .raw n zi v m = ⌊(n : ℝ) / zi * 2 ^ 24⌋₊ ∧
    (0 < v → v ≤ m → estimate .linear n zi v m = ⌊2 ^ 24 * ((m : ℝ) * Real.log (m / v))⌋₊) ∧
    (n < 2 ^ 32 * zi →
      estimate .large n zi v m = ⌊2 ^ 24 * (-(2 ^ 32 : ℝ) * Real.log (1 - n / (2 ^ 32 * zi)))⌋₊)

/-- R170, R173: the region selection is the source's comparison of the real `E = N / Zi` with `2.5 m`, `2^32 / 30` and
`2^32`. -/
def Obligations.RegionSelectionMatchesRealThresholds : Prop :=
  ∀ n zi v m : Nat, 0 < zi →
    let e : ℝ := n / zi
    (selectRegion n zi v m = some .linear ↔ e ≤ 2.5 * m ∧ 0 < v) ∧
    (selectRegion n zi v m = some .raw ↔ (e ≤ 2.5 * m ∧ v = 0) ∨ (2.5 * m < e ∧ e ≤ 2 ^ 32 / 30)) ∧
    (selectRegion n zi v m = some .large ↔ 2.5 * m < e ∧ 2 ^ 32 / 30 < e ∧ e < 2 ^ 32) ∧
    (selectRegion n zi v m = none ↔ 2.5 * m < e ∧ 2 ^ 32 / 30 < e ∧ 2 ^ 32 ≤ e)

/-- R171: `Zi` and `V` are the exact sum and count over the addressable entries, with their bounds, for every entry
content and every legal `P`; and `N < 2^64` (R172). -/
def Obligations.HarmonicSumIsExactAndBounded : Prop :=
  ∀ s : State, 4 ≤ s.p → s.p ≤ 16 →
    s.harmonicSum = ∑ i ∈ Finset.range (2 ^ s.p), 2 ^ (32 - (s.reg i).toNat) ∧
    s.zeroCount = ((Finset.range (2 ^ s.p)).filter (fun i => s.reg i = 0)).card ∧
    2 * s.m ≤ s.harmonicSum ∧ s.harmonicSum ≤ 2 ^ 32 * s.m ∧ 2 ^ 32 * s.m ≤ 2 ^ 48 ∧ s.harmonicSum < 2 ^ 49 ∧
    0 < s.harmonicSum ∧ s.zeroCount ≤ s.m ∧ s.m ≤ 65536 ∧
    s.scaledNumerator = alphaInt s.p * 2 ^ (2 * s.p) ∧ s.scaledNumerator < 2 ^ 64

/-- R175: in the region that is selected the estimate is below `2^62`, so `RESULT` holds it whole. -/
def Obligations.EstimateFitsResult : Prop :=
  ∀ (s : State) (r : Region), 4 ≤ s.p → s.p ≤ 16 →
    selectRegion s.scaledNumerator s.harmonicSum s.zeroCount s.m = some r →
    estimate r s.scaledNumerator s.harmonicSum s.zeroCount s.m < 2 ^ 62

/-- R177: two states with equal `P` and equal addressable entries give equal `RESULT`, `EST_Z` and `EST_INFO`, or both
raise `E_DOMAIN`. -/
def Obligations.CardDependsOnEntriesOnly : Prop :=
  ∀ s t : State, s.prec ≠ 0 → s.prec = t.prec → (∀ i, i < 2 ^ s.p → s.reg i = t.reg i) →
    ∃ s' t', exec .card s = .next s' ∧ exec .card t = .next t' ∧ s'.lastErr = t'.lastErr ∧
      ((s'.lastErr = 0 ∧ s'.result = t'.result ∧ s'.estZ = t'.estZ ∧ s'.estInfo = t'.estInfo) ∨
       (s' = s.errorCompletion .domain ∧ t' = t.errorCompletion .domain))

/-! ### Rules about the whole machine -/

/-- The invariant of the model holds after reset. -/
def Obligations.ResetMeetsInvariant : Prop := State.reset.Inv

/-- R40: every step keeps the invariant: `P` is 0 or 4..16, `FIRSTERR` is 0 exactly while `ERR` is, the error codes are
those of R221, the entries are in canonical form and addressable, the digest is 0 until `DVALID`, and `RESULT`, `EST_Z` and
`EST_INFO` have their formats. -/
def Obligations.StepKeepsInvariant : Prop :=
  ∀ s t : State, s.Inv → step s = .next t → t.Inv

/-- R44: no command but `EINIT` lowers an entry of a configured estimator, and only `HFINAL` with `ADD`, `RUPD` and `RMAX`
change one. -/
def Obligations.EntriesAreMonotonic : Prop :=
  ∀ (i : Instr) (s t : State), s.Inv → exec i s = .next t → (∀ p, i ≠ .einit p) →
    (s.prec ≠ 0 → ∀ j, (s.reg j).toNat ≤ (t.reg j).toNat) ∧
    (i ≠ .rupd → (∀ r, i ≠ .hfinal r true) → (∀ a b c, i ≠ .rmax a b c) → ∀ j, t.reg j = s.reg j)

/-- R45, R37: `P`, and with it `m` and `ALPHA`, change only at `EINIT` or reset. -/
def Obligations.PrecisionChangesOnlyAtEinitOrReset : Prop :=
  ∀ s t : State, step s = .next t → t.prec ≠ s.prec →
    (∃ rest, s.pending = .reset :: rest) ∨
    (∃ c rest p, s.pending = .write (s.params.base + 0x18) 8 c :: rest ∧ decode c = .ok (.einit p) ∧ t.p = p)

/-- R23, R26, R27: no command writes `CTRL`, `DATA0` or `DATA1`, and none but `HFINAL` writes the digest, `DVALID` or clears
`HOPEN`; none changes the parameters or the host's accesses. -/
def Obligations.CommandsLeaveOperandAndDigestRegisters : Prop :=
  ∀ (i : Instr) (s t : State), exec i s = .next t →
    t.ie = s.ie ∧ t.data0 = s.data0 ∧ t.data1 = s.data1 ∧ t.params = s.params ∧ t.pending = s.pending ∧
    t.response = s.response ∧ t.resets = s.resets ∧
    ((∀ r add, i ≠ .hfinal r add) → t.digestHi = s.digestHi ∧ t.digestLo = s.digestLo ∧ t.dvalid = s.dvalid ∧
      (s.hopen = true → t.hopen = true))

/-- R28 to R31: `RESULT` is written only by `RREAD`, `RANK`, `ALPHA` and `CARD`, `EST_Z` and `EST_INFO` only by `CARD`, and
`HLEN`, `H1`, `H2` only by the hash commands. -/
def Obligations.ResultRegistersHaveTheirWriters : Prop :=
  ∀ (i : Instr) (s t : State), exec i s = .next t →
    (i ≠ .card → (∀ j, i ≠ .rread j) → (∀ mb, i ≠ .rank mb) → (∀ p, i ≠ .alpha p) → t.result = s.result) ∧
    (i ≠ .card → t.estZ = s.estZ ∧ t.estInfo = s.estInfo) ∧
    (i ≠ .hinit → i ≠ .hblock → (∀ r add, i ≠ .hfinal r add) → t.hlen = s.hlen ∧ t.h1 = s.h1 ∧ t.h2 = s.h2)

/-- R35, R36, R42, R251: the accumulators while no hash is open and the entries that are not addressable are
unobservable: two states that differ in nothing else step to two such states, with the same answer to the host. -/
def Obligations.UnspecifiedStateIsUnobservable : Prop :=
  ∀ s t : State, s.Inv → t.Inv → SameObservable s t →
    ∃ s' t', step s = .next s' ∧ step t = .next t' ∧ SameObservable s' t' ∧ s'.response = t'.response

/-- R139: the host's precision is the least `p ≥ 0` with `2^p ≥ (1.04 / e)^2`, for `e = num / den` between 0 and 1. -/
def Obligations.HostPrecisionIsLeast : Prop :=
  ∀ num den : Nat, 0 < num → num < den →
    ((1.04 : ℝ) / (num / den)) ^ 2 ≤ 2 ^ hostPrecision num den ∧
    ∀ p : Nat, ((1.04 : ℝ) / (num / den)) ^ 2 ≤ 2 ^ p → hostPrecision num den ≤ p
end

