-- ==== Sys2Proof/Laws/RegFile.lean ====
section
/-! SUPPORT. The estimator register array as data: reading after writing, and the canonical form. -/

namespace Sys2Proof.Laws

open Sys2Proof.Machine

@[simp] theorem get_nil (i : Nat) : RegFile.get [] i = 0 := rfl

theorem canonical_nil : RegFile.Canonical [] := by simp [RegFile.Canonical]

theorem canonical_tail {e : Nat × Entry} {r : RegFile} (h : RegFile.Canonical (e :: r)) : RegFile.Canonical r :=
  ⟨(List.pairwise_cons.1 h.1).2, fun x hx => h.2 x (List.mem_cons_of_mem _ hx)⟩

/-- An index below every listed one reads 0. -/
theorem get_of_forall_ne {r : RegFile} {i : Nat} (h : ∀ e ∈ r, i ≠ e.1) : RegFile.get r i = 0 := by
  induction r with
  | nil => rfl
  | cons e r ih =>
    rw [RegFile.get, if_neg (h e (by simp))]
    exact ih fun x hx => h x (List.mem_cons_of_mem _ hx)

theorem get_head_rest {j : Nat} {w : Entry} {r : RegFile} (h : RegFile.Canonical ((j, w) :: r)) {i : Nat} (hi : i ≤ j) :
    RegFile.get r i = 0 :=
  get_of_forall_ne fun e he => by
    have := (List.pairwise_cons.1 h.1).1 e he
    simp only at this
    omega

/-- Reading after writing one entry of a canonical array. -/
theorem get_set {r : RegFile} (h : RegFile.Canonical r) (i : Nat) (v : Entry) (j : Nat) :
    RegFile.get (RegFile.set r i v) j = if j = i then v else RegFile.get r j := by
  induction r with
  | nil =>
    by_cases hv : v = 0
    · rw [RegFile.set, if_pos hv, hv]
      exact (ite_self _).symm
    · rw [RegFile.set, if_neg hv]
      rfl
  | cons e r ih =>
    obtain ⟨k, w⟩ := e
    have hrest := ih (canonical_tail h)
    have hread : ∀ x, x ≤ k → RegFile.get r x = 0 := fun x hx => get_head_rest h hx
    simp only [RegFile.set]
    by_cases hik : i < k
    · rw [if_pos hik]
      by_cases hv : v = 0
      · rw [if_pos hv]
        by_cases hj : j = i
        · subst hj
          simp [RegFile.get, Nat.ne_of_lt hik, hread j (Nat.le_of_lt hik), hv]
        · simp [hj]
      · rw [if_neg hv, RegFile.get]
    · rw [if_neg hik]
      by_cases hie : i = k
      · subst hie
        rw [if_pos rfl]
        by_cases hv : v = 0
        · rw [if_pos hv]
          by_cases hj : j = i
          · subst hj
            simp [hread j (Nat.le_refl j), hv]
          · simp [hj, RegFile.get]
        · rw [if_neg hv]
          by_cases hj : j = i <;> simp [hj, RegFile.get]
      · rw [if_neg hie, RegFile.get, RegFile.get, hrest]
        by_cases hj : j = k
        · have : j ≠ i := by omega
          simp [hj, Ne.symm hie]
        · simp [hj]

/-- The entries after a write are old ones or the written one. -/
theorem mem_set {r : RegFile} {i : Nat} {v : Entry} {e : Nat × Entry} (h : e ∈ RegFile.set r i v) :
    e ∈ r ∨ (e = (i, v) ∧ v ≠ 0) := by
  induction r with
  | nil =>
    by_cases hv : v = 0
    · rw [RegFile.set, if_pos hv] at h
      exact .inl h
    · rw [RegFile.set, if_neg hv] at h
      exact .inr ⟨List.mem_singleton.1 h, hv⟩
  | cons x r ih =>
    obtain ⟨k, w⟩ := x
    simp only [RegFile.set] at h
    split at h
    · split at h
      · exact .inl h
      · rename_i hv
        rcases List.mem_cons.1 h with h | h
        · exact .inr ⟨h, hv⟩
        · exact .inl h
    · split at h
      · split at h
        · exact .inl (List.mem_cons_of_mem _ h)
        · rename_i hv
          rcases List.mem_cons.1 h with h | h
          · exact .inr ⟨h, hv⟩
          · exact .inl (List.mem_cons_of_mem _ h)
      · rcases List.mem_cons.1 h with h | h
        · exact .inl (by simp [h])
        · exact (ih h).imp_left (List.mem_cons_of_mem _)

/-- A write keeps the canonical form. -/
theorem canonical_set {r : RegFile} (h : RegFile.Canonical r) {i : Nat} (hi : i < Config.mMax) (v : Entry) :
    RegFile.Canonical (RegFile.set r i v) := by
  refine ⟨?_, fun e he => ?_⟩
  · induction r with
    | nil =>
      by_cases hv : v = 0
      · rw [RegFile.set, if_pos hv]
        exact List.Pairwise.nil
      · rw [RegFile.set, if_neg hv]
        exact List.pairwise_singleton _ _
    | cons x r ih =>
      obtain ⟨k, w⟩ := x
      have hp := List.pairwise_cons.1 h.1
      have hrest := ih (canonical_tail h)
      simp only [RegFile.set]
      split
      · rename_i hik
        split
        · exact h.1
        · refine List.pairwise_cons.2 ⟨fun e he => ?_, h.1⟩
          rcases List.mem_cons.1 he with rfl | he
          · exact hik
          · exact Nat.lt_trans hik (hp.1 e he)
      · rename_i hik
        split
        · rename_i hie
          subst hie
          split
          · exact hp.2
          · exact List.pairwise_cons.2 ⟨hp.1, hp.2⟩
        · rename_i hie
          refine List.pairwise_cons.2 ⟨fun e he => ?_, hrest⟩
          rcases mem_set he with he | ⟨rfl, -⟩
          · exact hp.1 e he
          · show k < i
            omega
  · rcases mem_set he with he | ⟨rfl, hv⟩
    · exact h.2 e he
    · exact ⟨hi, hv⟩

/-- Equal arrays are equal data: a canonical array is determined by what it reads. -/
theorem canonical_ext {r q : RegFile} (hr : RegFile.Canonical r) (hq : RegFile.Canonical q)
    (h : ∀ i, RegFile.get r i = RegFile.get q i) : r = q := by
  induction r generalizing q with
  | nil =>
    cases q with
    | nil => rfl
    | cons e q =>
      obtain ⟨k, w⟩ := e
      have := h k
      simp only [RegFile.get, if_true] at this
      exact absurd this.symm (hq.2 (k, w) (by simp)).2
  | cons e r ih =>
    obtain ⟨k, w⟩ := e
    have hw : w ≠ 0 := (hr.2 (k, w) (by simp)).2
    cases q with
    | nil =>
      have := h k
      simp only [RegFile.get, if_true] at this
      exact absurd this hw
    | cons f q =>
      obtain ⟨l, x⟩ := f
      have hx : x ≠ 0 := (hq.2 (l, x) (by simp)).2
      have hkl : k = l := by
        rcases Nat.lt_trichotomy k l with hlt | heq | hgt
        · have := h k
          simp only [RegFile.get, if_true, Nat.ne_of_lt hlt, if_false, get_head_rest hq (Nat.le_of_lt hlt)] at this
          exact absurd this hw
        · exact heq
        · have := h l
          simp only [RegFile.get, if_true, Nat.ne_of_lt hgt, if_false, get_head_rest hr (Nat.le_of_lt hgt)] at this
          exact absurd this.symm hx
      subst hkl
      have hwx : w = x := by simpa [RegFile.get] using h k
      subst hwx
      refine congrArg _ (ih (canonical_tail hr) (canonical_tail hq) fun i => ?_)
      by_cases hi : i = k
      · subst hi
        rw [get_head_rest hr (Nat.le_refl i), get_head_rest hq (Nat.le_refl i)]
      · simpa [RegFile.get, hi] using h i

end Sys2Proof.Laws
end

