-- ==== Sys2Proof/Laws/State.lean ====
section
/-! SUPPORT. What each field of the state is after each shared update: one lemma per field and update, so that
no later proof unfolds a record update. A proof is written `(rfl)` so that `simp` uses the lemma as a rewrite: the kernel
then compares names, where it would unfold the word arithmetic of a whole state to check a definitional step. -/

namespace Sys2Proof.Laws

open Sys2Proof.Machine

/-! ### `State.errorCompletion` -/

@[simp] theorem errorCompletion_data0 (s : State) (e : ErrCode) : (s.errorCompletion e).data0 = s.data0 := (rfl)
@[simp] theorem errorCompletion_data1 (s : State) (e : ErrCode) : (s.errorCompletion e).data1 = s.data1 := (rfl)
@[simp] theorem errorCompletion_digestHi (s : State) (e : ErrCode) : (s.errorCompletion e).digestHi = s.digestHi := (rfl)
@[simp] theorem errorCompletion_digestLo (s : State) (e : ErrCode) : (s.errorCompletion e).digestLo = s.digestLo := (rfl)
@[simp] theorem errorCompletion_result (s : State) (e : ErrCode) : (s.errorCompletion e).result = s.result := (rfl)
@[simp] theorem errorCompletion_estZ (s : State) (e : ErrCode) : (s.errorCompletion e).estZ = s.estZ := (rfl)
@[simp] theorem errorCompletion_estInfo (s : State) (e : ErrCode) : (s.errorCompletion e).estInfo = s.estInfo := (rfl)
@[simp] theorem errorCompletion_hlen (s : State) (e : ErrCode) : (s.errorCompletion e).hlen = s.hlen := (rfl)
@[simp] theorem errorCompletion_h1 (s : State) (e : ErrCode) : (s.errorCompletion e).h1 = s.h1 := (rfl)
@[simp] theorem errorCompletion_h2 (s : State) (e : ErrCode) : (s.errorCompletion e).h2 = s.h2 := (rfl)
@[simp] theorem errorCompletion_hopen (s : State) (e : ErrCode) : (s.errorCompletion e).hopen = s.hopen := (rfl)
@[simp] theorem errorCompletion_dvalid (s : State) (e : ErrCode) : (s.errorCompletion e).dvalid = s.dvalid := (rfl)
@[simp] theorem errorCompletion_prec (s : State) (e : ErrCode) : (s.errorCompletion e).prec = s.prec := (rfl)
@[simp] theorem errorCompletion_err (s : State) (e : ErrCode) : (s.errorCompletion e).err = true := (rfl)
@[simp] theorem errorCompletion_lastErr (s : State) (e : ErrCode) : (s.errorCompletion e).lastErr = e.code := (rfl)
@[simp] theorem errorCompletion_firstErr (s : State) (e : ErrCode) : (s.errorCompletion e).firstErr = if s.err then s.firstErr else e.code := (rfl)
@[simp] theorem errorCompletion_ie (s : State) (e : ErrCode) : (s.errorCompletion e).ie = s.ie := (rfl)
@[simp] theorem errorCompletion_regs (s : State) (e : ErrCode) : (s.errorCompletion e).regs = s.regs := (rfl)
@[simp] theorem errorCompletion_params (s : State) (e : ErrCode) : (s.errorCompletion e).params = s.params := (rfl)
@[simp] theorem errorCompletion_draws (s : State) (e : ErrCode) : (s.errorCompletion e).draws = s.draws := (rfl)
@[simp] theorem errorCompletion_resets (s : State) (e : ErrCode) : (s.errorCompletion e).resets = s.resets := (rfl)
@[simp] theorem errorCompletion_pending (s : State) (e : ErrCode) : (s.errorCompletion e).pending = s.pending := (rfl)
@[simp] theorem errorCompletion_response (s : State) (e : ErrCode) : (s.errorCompletion e).response = s.response := (rfl)

/-! ### `State.successCompletion` -/

@[simp] theorem successCompletion_data0 (s : State) : (s.successCompletion).data0 = s.data0 := (rfl)
@[simp] theorem successCompletion_data1 (s : State) : (s.successCompletion).data1 = s.data1 := (rfl)
@[simp] theorem successCompletion_digestHi (s : State) : (s.successCompletion).digestHi = s.digestHi := (rfl)
@[simp] theorem successCompletion_digestLo (s : State) : (s.successCompletion).digestLo = s.digestLo := (rfl)
@[simp] theorem successCompletion_result (s : State) : (s.successCompletion).result = s.result := (rfl)
@[simp] theorem successCompletion_estZ (s : State) : (s.successCompletion).estZ = s.estZ := (rfl)
@[simp] theorem successCompletion_estInfo (s : State) : (s.successCompletion).estInfo = s.estInfo := (rfl)
@[simp] theorem successCompletion_hlen (s : State) : (s.successCompletion).hlen = s.hlen := (rfl)
@[simp] theorem successCompletion_h1 (s : State) : (s.successCompletion).h1 = s.h1 := (rfl)
@[simp] theorem successCompletion_h2 (s : State) : (s.successCompletion).h2 = s.h2 := (rfl)
@[simp] theorem successCompletion_hopen (s : State) : (s.successCompletion).hopen = s.hopen := (rfl)
@[simp] theorem successCompletion_dvalid (s : State) : (s.successCompletion).dvalid = s.dvalid := (rfl)
@[simp] theorem successCompletion_prec (s : State) : (s.successCompletion).prec = s.prec := (rfl)
@[simp] theorem successCompletion_err (s : State) : (s.successCompletion).err = s.err := (rfl)
@[simp] theorem successCompletion_lastErr (s : State) : (s.successCompletion).lastErr = 0 := (rfl)
@[simp] theorem successCompletion_firstErr (s : State) : (s.successCompletion).firstErr = s.firstErr := (rfl)
@[simp] theorem successCompletion_ie (s : State) : (s.successCompletion).ie = s.ie := (rfl)
@[simp] theorem successCompletion_regs (s : State) : (s.successCompletion).regs = s.regs := (rfl)
@[simp] theorem successCompletion_params (s : State) : (s.successCompletion).params = s.params := (rfl)
@[simp] theorem successCompletion_draws (s : State) : (s.successCompletion).draws = s.draws := (rfl)
@[simp] theorem successCompletion_resets (s : State) : (s.successCompletion).resets = s.resets := (rfl)
@[simp] theorem successCompletion_pending (s : State) : (s.successCompletion).pending = s.pending := (rfl)
@[simp] theorem successCompletion_response (s : State) : (s.successCompletion).response = s.response := (rfl)

/-! ### `State.clearErrors` -/

@[simp] theorem clearErrors_data0 (s : State) : (s.clearErrors).data0 = s.data0 := (rfl)
@[simp] theorem clearErrors_data1 (s : State) : (s.clearErrors).data1 = s.data1 := (rfl)
@[simp] theorem clearErrors_digestHi (s : State) : (s.clearErrors).digestHi = s.digestHi := (rfl)
@[simp] theorem clearErrors_digestLo (s : State) : (s.clearErrors).digestLo = s.digestLo := (rfl)
@[simp] theorem clearErrors_result (s : State) : (s.clearErrors).result = s.result := (rfl)
@[simp] theorem clearErrors_estZ (s : State) : (s.clearErrors).estZ = s.estZ := (rfl)
@[simp] theorem clearErrors_estInfo (s : State) : (s.clearErrors).estInfo = s.estInfo := (rfl)
@[simp] theorem clearErrors_hlen (s : State) : (s.clearErrors).hlen = s.hlen := (rfl)
@[simp] theorem clearErrors_h1 (s : State) : (s.clearErrors).h1 = s.h1 := (rfl)
@[simp] theorem clearErrors_h2 (s : State) : (s.clearErrors).h2 = s.h2 := (rfl)
@[simp] theorem clearErrors_hopen (s : State) : (s.clearErrors).hopen = s.hopen := (rfl)
@[simp] theorem clearErrors_dvalid (s : State) : (s.clearErrors).dvalid = s.dvalid := (rfl)
@[simp] theorem clearErrors_prec (s : State) : (s.clearErrors).prec = s.prec := (rfl)
@[simp] theorem clearErrors_err (s : State) : (s.clearErrors).err = false := (rfl)
@[simp] theorem clearErrors_lastErr (s : State) : (s.clearErrors).lastErr = s.lastErr := (rfl)
@[simp] theorem clearErrors_firstErr (s : State) : (s.clearErrors).firstErr = 0 := (rfl)
@[simp] theorem clearErrors_ie (s : State) : (s.clearErrors).ie = s.ie := (rfl)
@[simp] theorem clearErrors_regs (s : State) : (s.clearErrors).regs = s.regs := (rfl)
@[simp] theorem clearErrors_params (s : State) : (s.clearErrors).params = s.params := (rfl)
@[simp] theorem clearErrors_draws (s : State) : (s.clearErrors).draws = s.draws := (rfl)
@[simp] theorem clearErrors_resets (s : State) : (s.clearErrors).resets = s.resets := (rfl)
@[simp] theorem clearErrors_pending (s : State) : (s.clearErrors).pending = s.pending := (rfl)
@[simp] theorem clearErrors_response (s : State) : (s.clearErrors).response = s.response := (rfl)

/-! ### `State.raiseReg` -/

@[simp] theorem raiseReg_data0 (s : State) (i v : Nat) : (s.raiseReg i v).data0 = s.data0 := (rfl)
@[simp] theorem raiseReg_data1 (s : State) (i v : Nat) : (s.raiseReg i v).data1 = s.data1 := (rfl)
@[simp] theorem raiseReg_digestHi (s : State) (i v : Nat) : (s.raiseReg i v).digestHi = s.digestHi := (rfl)
@[simp] theorem raiseReg_digestLo (s : State) (i v : Nat) : (s.raiseReg i v).digestLo = s.digestLo := (rfl)
@[simp] theorem raiseReg_result (s : State) (i v : Nat) : (s.raiseReg i v).result = s.result := (rfl)
@[simp] theorem raiseReg_estZ (s : State) (i v : Nat) : (s.raiseReg i v).estZ = s.estZ := (rfl)
@[simp] theorem raiseReg_estInfo (s : State) (i v : Nat) : (s.raiseReg i v).estInfo = s.estInfo := (rfl)
@[simp] theorem raiseReg_hlen (s : State) (i v : Nat) : (s.raiseReg i v).hlen = s.hlen := (rfl)
@[simp] theorem raiseReg_h1 (s : State) (i v : Nat) : (s.raiseReg i v).h1 = s.h1 := (rfl)
@[simp] theorem raiseReg_h2 (s : State) (i v : Nat) : (s.raiseReg i v).h2 = s.h2 := (rfl)
@[simp] theorem raiseReg_hopen (s : State) (i v : Nat) : (s.raiseReg i v).hopen = s.hopen := (rfl)
@[simp] theorem raiseReg_dvalid (s : State) (i v : Nat) : (s.raiseReg i v).dvalid = s.dvalid := (rfl)
@[simp] theorem raiseReg_prec (s : State) (i v : Nat) : (s.raiseReg i v).prec = s.prec := (rfl)
@[simp] theorem raiseReg_err (s : State) (i v : Nat) : (s.raiseReg i v).err = s.err := (rfl)
@[simp] theorem raiseReg_lastErr (s : State) (i v : Nat) : (s.raiseReg i v).lastErr = s.lastErr := (rfl)
@[simp] theorem raiseReg_firstErr (s : State) (i v : Nat) : (s.raiseReg i v).firstErr = s.firstErr := (rfl)
@[simp] theorem raiseReg_ie (s : State) (i v : Nat) : (s.raiseReg i v).ie = s.ie := (rfl)
@[simp] theorem raiseReg_regs (s : State) (i v : Nat) : (s.raiseReg i v).regs = RegFile.set s.regs i (maxEntry (s.reg i) v) := (rfl)
@[simp] theorem raiseReg_params (s : State) (i v : Nat) : (s.raiseReg i v).params = s.params := (rfl)
@[simp] theorem raiseReg_draws (s : State) (i v : Nat) : (s.raiseReg i v).draws = s.draws := (rfl)
@[simp] theorem raiseReg_resets (s : State) (i v : Nat) : (s.raiseReg i v).resets = s.resets := (rfl)
@[simp] theorem raiseReg_pending (s : State) (i v : Nat) : (s.raiseReg i v).pending = s.pending := (rfl)
@[simp] theorem raiseReg_response (s : State) (i v : Nat) : (s.raiseReg i v).response = s.response := (rfl)

/-! ### `State.construct` -/

@[simp] theorem construct_data0 (s : State) (p : Nat) : (s.construct p).data0 = s.data0 := (rfl)
@[simp] theorem construct_data1 (s : State) (p : Nat) : (s.construct p).data1 = s.data1 := (rfl)
@[simp] theorem construct_digestHi (s : State) (p : Nat) : (s.construct p).digestHi = s.digestHi := (rfl)
@[simp] theorem construct_digestLo (s : State) (p : Nat) : (s.construct p).digestLo = s.digestLo := (rfl)
@[simp] theorem construct_result (s : State) (p : Nat) : (s.construct p).result = s.result := (rfl)
@[simp] theorem construct_estZ (s : State) (p : Nat) : (s.construct p).estZ = s.estZ := (rfl)
@[simp] theorem construct_estInfo (s : State) (p : Nat) : (s.construct p).estInfo = s.estInfo := (rfl)
@[simp] theorem construct_hlen (s : State) (p : Nat) : (s.construct p).hlen = s.hlen := (rfl)
@[simp] theorem construct_h1 (s : State) (p : Nat) : (s.construct p).h1 = s.h1 := (rfl)
@[simp] theorem construct_h2 (s : State) (p : Nat) : (s.construct p).h2 = s.h2 := (rfl)
@[simp] theorem construct_hopen (s : State) (p : Nat) : (s.construct p).hopen = s.hopen := (rfl)
@[simp] theorem construct_dvalid (s : State) (p : Nat) : (s.construct p).dvalid = s.dvalid := (rfl)
@[simp] theorem construct_prec (s : State) (p : Nat) : (s.construct p).prec = BitVec.ofNat 5 p := (rfl)
@[simp] theorem construct_err (s : State) (p : Nat) : (s.construct p).err = s.err := (rfl)
@[simp] theorem construct_lastErr (s : State) (p : Nat) : (s.construct p).lastErr = s.lastErr := (rfl)
@[simp] theorem construct_firstErr (s : State) (p : Nat) : (s.construct p).firstErr = s.firstErr := (rfl)
@[simp] theorem construct_ie (s : State) (p : Nat) : (s.construct p).ie = s.ie := (rfl)
@[simp] theorem construct_regs (s : State) (p : Nat) : (s.construct p).regs = [] := (rfl)
@[simp] theorem construct_params (s : State) (p : Nat) : (s.construct p).params = s.params := (rfl)
@[simp] theorem construct_draws (s : State) (p : Nat) : (s.construct p).draws = s.draws := (rfl)
@[simp] theorem construct_resets (s : State) (p : Nat) : (s.construct p).resets = s.resets := (rfl)
@[simp] theorem construct_pending (s : State) (p : Nat) : (s.construct p).pending = s.pending := (rfl)
@[simp] theorem construct_response (s : State) (p : Nat) : (s.construct p).response = s.response := (rfl)

/-! ### `State.registerUpdate` -/

@[simp] theorem registerUpdate_data0 (s : State) (d : BitVec 128) : (s.registerUpdate d).data0 = s.data0 := (rfl)
@[simp] theorem registerUpdate_data1 (s : State) (d : BitVec 128) : (s.registerUpdate d).data1 = s.data1 := (rfl)
@[simp] theorem registerUpdate_digestHi (s : State) (d : BitVec 128) : (s.registerUpdate d).digestHi = s.digestHi := (rfl)
@[simp] theorem registerUpdate_digestLo (s : State) (d : BitVec 128) : (s.registerUpdate d).digestLo = s.digestLo := (rfl)
@[simp] theorem registerUpdate_result (s : State) (d : BitVec 128) : (s.registerUpdate d).result = s.result := (rfl)
@[simp] theorem registerUpdate_estZ (s : State) (d : BitVec 128) : (s.registerUpdate d).estZ = s.estZ := (rfl)
@[simp] theorem registerUpdate_estInfo (s : State) (d : BitVec 128) : (s.registerUpdate d).estInfo = s.estInfo := (rfl)
@[simp] theorem registerUpdate_hlen (s : State) (d : BitVec 128) : (s.registerUpdate d).hlen = s.hlen := (rfl)
@[simp] theorem registerUpdate_h1 (s : State) (d : BitVec 128) : (s.registerUpdate d).h1 = s.h1 := (rfl)
@[simp] theorem registerUpdate_h2 (s : State) (d : BitVec 128) : (s.registerUpdate d).h2 = s.h2 := (rfl)
@[simp] theorem registerUpdate_hopen (s : State) (d : BitVec 128) : (s.registerUpdate d).hopen = s.hopen := (rfl)
@[simp] theorem registerUpdate_dvalid (s : State) (d : BitVec 128) : (s.registerUpdate d).dvalid = s.dvalid := (rfl)
@[simp] theorem registerUpdate_prec (s : State) (d : BitVec 128) : (s.registerUpdate d).prec = s.prec := (rfl)
@[simp] theorem registerUpdate_err (s : State) (d : BitVec 128) : (s.registerUpdate d).err = s.err := (rfl)
@[simp] theorem registerUpdate_lastErr (s : State) (d : BitVec 128) : (s.registerUpdate d).lastErr = s.lastErr := (rfl)
@[simp] theorem registerUpdate_firstErr (s : State) (d : BitVec 128) : (s.registerUpdate d).firstErr = s.firstErr := (rfl)
@[simp] theorem registerUpdate_ie (s : State) (d : BitVec 128) : (s.registerUpdate d).ie = s.ie := (rfl)
@[simp] theorem registerUpdate_params (s : State) (d : BitVec 128) : (s.registerUpdate d).params = s.params := (rfl)
@[simp] theorem registerUpdate_draws (s : State) (d : BitVec 128) : (s.registerUpdate d).draws = s.draws := (rfl)
@[simp] theorem registerUpdate_resets (s : State) (d : BitVec 128) : (s.registerUpdate d).resets = s.resets := (rfl)
@[simp] theorem registerUpdate_pending (s : State) (d : BitVec 128) : (s.registerUpdate d).pending = s.pending := (rfl)
@[simp] theorem registerUpdate_response (s : State) (d : BitVec 128) : (s.registerUpdate d).response = s.response := (rfl)

/-! ### `State.forgetAccumulators` -/

@[simp] theorem forgetAccumulators_data0 (s : State) : (s.forgetAccumulators).data0 = s.data0 := (rfl)
@[simp] theorem forgetAccumulators_data1 (s : State) : (s.forgetAccumulators).data1 = s.data1 := (rfl)
@[simp] theorem forgetAccumulators_digestHi (s : State) : (s.forgetAccumulators).digestHi = s.digestHi := (rfl)
@[simp] theorem forgetAccumulators_digestLo (s : State) : (s.forgetAccumulators).digestLo = s.digestLo := (rfl)
@[simp] theorem forgetAccumulators_result (s : State) : (s.forgetAccumulators).result = s.result := (rfl)
@[simp] theorem forgetAccumulators_estZ (s : State) : (s.forgetAccumulators).estZ = s.estZ := (rfl)
@[simp] theorem forgetAccumulators_estInfo (s : State) : (s.forgetAccumulators).estInfo = s.estInfo := (rfl)
@[simp] theorem forgetAccumulators_hlen (s : State) : (s.forgetAccumulators).hlen = s.hlen := (rfl)
@[simp] theorem forgetAccumulators_h1 (s : State) : (s.forgetAccumulators).h1 = Config.unspecifiedH1 (s.draws + 1) := (rfl)
@[simp] theorem forgetAccumulators_h2 (s : State) : (s.forgetAccumulators).h2 = Config.unspecifiedH2 (s.draws + 1) := (rfl)
@[simp] theorem forgetAccumulators_hopen (s : State) : (s.forgetAccumulators).hopen = s.hopen := (rfl)
@[simp] theorem forgetAccumulators_dvalid (s : State) : (s.forgetAccumulators).dvalid = s.dvalid := (rfl)
@[simp] theorem forgetAccumulators_prec (s : State) : (s.forgetAccumulators).prec = s.prec := (rfl)
@[simp] theorem forgetAccumulators_err (s : State) : (s.forgetAccumulators).err = s.err := (rfl)
@[simp] theorem forgetAccumulators_lastErr (s : State) : (s.forgetAccumulators).lastErr = s.lastErr := (rfl)
@[simp] theorem forgetAccumulators_firstErr (s : State) : (s.forgetAccumulators).firstErr = s.firstErr := (rfl)
@[simp] theorem forgetAccumulators_ie (s : State) : (s.forgetAccumulators).ie = s.ie := (rfl)
@[simp] theorem forgetAccumulators_regs (s : State) : (s.forgetAccumulators).regs = s.regs := (rfl)
@[simp] theorem forgetAccumulators_params (s : State) : (s.forgetAccumulators).params = s.params := (rfl)
@[simp] theorem forgetAccumulators_draws (s : State) : (s.forgetAccumulators).draws = s.draws + 1 := (rfl)
@[simp] theorem forgetAccumulators_resets (s : State) : (s.forgetAccumulators).resets = s.resets := (rfl)
@[simp] theorem forgetAccumulators_pending (s : State) : (s.forgetAccumulators).pending = s.pending := (rfl)
@[simp] theorem forgetAccumulators_response (s : State) : (s.forgetAccumulators).response = s.response := (rfl)

/-! ### `State.closeHash` -/

@[simp] theorem closeHash_data0 (s : State) (hi lo len : Word) : (s.closeHash hi lo len).data0 = s.data0 := (rfl)
@[simp] theorem closeHash_data1 (s : State) (hi lo len : Word) : (s.closeHash hi lo len).data1 = s.data1 := (rfl)
@[simp] theorem closeHash_digestHi (s : State) (hi lo len : Word) : (s.closeHash hi lo len).digestHi = hi := (rfl)
@[simp] theorem closeHash_digestLo (s : State) (hi lo len : Word) : (s.closeHash hi lo len).digestLo = lo := (rfl)
@[simp] theorem closeHash_result (s : State) (hi lo len : Word) : (s.closeHash hi lo len).result = s.result := (rfl)
@[simp] theorem closeHash_estZ (s : State) (hi lo len : Word) : (s.closeHash hi lo len).estZ = s.estZ := (rfl)
@[simp] theorem closeHash_estInfo (s : State) (hi lo len : Word) : (s.closeHash hi lo len).estInfo = s.estInfo := (rfl)
@[simp] theorem closeHash_hlen (s : State) (hi lo len : Word) : (s.closeHash hi lo len).hlen = len := (rfl)
@[simp] theorem closeHash_h1 (s : State) (hi lo len : Word) : (s.closeHash hi lo len).h1 = Config.unspecifiedH1 (s.draws + 1) := (rfl)
@[simp] theorem closeHash_h2 (s : State) (hi lo len : Word) : (s.closeHash hi lo len).h2 = Config.unspecifiedH2 (s.draws + 1) := (rfl)
@[simp] theorem closeHash_hopen (s : State) (hi lo len : Word) : (s.closeHash hi lo len).hopen = false := (rfl)
@[simp] theorem closeHash_dvalid (s : State) (hi lo len : Word) : (s.closeHash hi lo len).dvalid = true := (rfl)
@[simp] theorem closeHash_prec (s : State) (hi lo len : Word) : (s.closeHash hi lo len).prec = s.prec := (rfl)
@[simp] theorem closeHash_err (s : State) (hi lo len : Word) : (s.closeHash hi lo len).err = s.err := (rfl)
@[simp] theorem closeHash_lastErr (s : State) (hi lo len : Word) : (s.closeHash hi lo len).lastErr = s.lastErr := (rfl)
@[simp] theorem closeHash_firstErr (s : State) (hi lo len : Word) : (s.closeHash hi lo len).firstErr = s.firstErr := (rfl)
@[simp] theorem closeHash_ie (s : State) (hi lo len : Word) : (s.closeHash hi lo len).ie = s.ie := (rfl)
@[simp] theorem closeHash_regs (s : State) (hi lo len : Word) : (s.closeHash hi lo len).regs = s.regs := (rfl)
@[simp] theorem closeHash_params (s : State) (hi lo len : Word) : (s.closeHash hi lo len).params = s.params := (rfl)
@[simp] theorem closeHash_draws (s : State) (hi lo len : Word) : (s.closeHash hi lo len).draws = s.draws + 1 := (rfl)
@[simp] theorem closeHash_resets (s : State) (hi lo len : Word) : (s.closeHash hi lo len).resets = s.resets := (rfl)
@[simp] theorem closeHash_pending (s : State) (hi lo len : Word) : (s.closeHash hi lo len).pending = s.pending := (rfl)
@[simp] theorem closeHash_response (s : State) (hi lo len : Word) : (s.closeHash hi lo len).response = s.response := (rfl)

/-! ### `State.finalised` -/

@[simp] theorem finalised_data0 (s : State) (r : Nat) : (s.finalised r).data0 = s.data0 := closeHash_data0 s _ _ _
@[simp] theorem finalised_data1 (s : State) (r : Nat) : (s.finalised r).data1 = s.data1 := closeHash_data1 s _ _ _
@[simp] theorem finalised_digestHi (s : State) (r : Nat) : (s.finalised r).digestHi = (s.finishedDigest r).1 := closeHash_digestHi s _ _ _
@[simp] theorem finalised_digestLo (s : State) (r : Nat) : (s.finalised r).digestLo = (s.finishedDigest r).2 := closeHash_digestLo s _ _ _
@[simp] theorem finalised_result (s : State) (r : Nat) : (s.finalised r).result = s.result := closeHash_result s _ _ _
@[simp] theorem finalised_estZ (s : State) (r : Nat) : (s.finalised r).estZ = s.estZ := closeHash_estZ s _ _ _
@[simp] theorem finalised_estInfo (s : State) (r : Nat) : (s.finalised r).estInfo = s.estInfo := closeHash_estInfo s _ _ _
@[simp] theorem finalised_hlen (s : State) (r : Nat) : (s.finalised r).hlen = s.hlen + BitVec.ofNat 64 r := closeHash_hlen s _ _ _
@[simp] theorem finalised_h1 (s : State) (r : Nat) : (s.finalised r).h1 = Config.unspecifiedH1 (s.draws + 1) := closeHash_h1 s _ _ _
@[simp] theorem finalised_h2 (s : State) (r : Nat) : (s.finalised r).h2 = Config.unspecifiedH2 (s.draws + 1) := closeHash_h2 s _ _ _
@[simp] theorem finalised_hopen (s : State) (r : Nat) : (s.finalised r).hopen = false := closeHash_hopen s _ _ _
@[simp] theorem finalised_dvalid (s : State) (r : Nat) : (s.finalised r).dvalid = true := closeHash_dvalid s _ _ _
@[simp] theorem finalised_prec (s : State) (r : Nat) : (s.finalised r).prec = s.prec := closeHash_prec s _ _ _
@[simp] theorem finalised_err (s : State) (r : Nat) : (s.finalised r).err = s.err := closeHash_err s _ _ _
@[simp] theorem finalised_lastErr (s : State) (r : Nat) : (s.finalised r).lastErr = s.lastErr := closeHash_lastErr s _ _ _
@[simp] theorem finalised_firstErr (s : State) (r : Nat) : (s.finalised r).firstErr = s.firstErr := closeHash_firstErr s _ _ _
@[simp] theorem finalised_ie (s : State) (r : Nat) : (s.finalised r).ie = s.ie := closeHash_ie s _ _ _
@[simp] theorem finalised_regs (s : State) (r : Nat) : (s.finalised r).regs = s.regs := closeHash_regs s _ _ _
@[simp] theorem finalised_params (s : State) (r : Nat) : (s.finalised r).params = s.params := closeHash_params s _ _ _
@[simp] theorem finalised_draws (s : State) (r : Nat) : (s.finalised r).draws = s.draws + 1 := closeHash_draws s _ _ _
@[simp] theorem finalised_resets (s : State) (r : Nat) : (s.finalised r).resets = s.resets := closeHash_resets s _ _ _
@[simp] theorem finalised_pending (s : State) (r : Nat) : (s.finalised r).pending = s.pending := closeHash_pending s _ _ _
@[simp] theorem finalised_response (s : State) (r : Nat) : (s.finalised r).response = s.response := closeHash_response s _ _ _

/-! ### `State.setResult` -/

@[simp] theorem setResult_data0 (s : State) (v : Word) : (s.setResult v).data0 = s.data0 := (rfl)
@[simp] theorem setResult_data1 (s : State) (v : Word) : (s.setResult v).data1 = s.data1 := (rfl)
@[simp] theorem setResult_digestHi (s : State) (v : Word) : (s.setResult v).digestHi = s.digestHi := (rfl)
@[simp] theorem setResult_digestLo (s : State) (v : Word) : (s.setResult v).digestLo = s.digestLo := (rfl)
@[simp] theorem setResult_result (s : State) (v : Word) : (s.setResult v).result = v := (rfl)
@[simp] theorem setResult_estZ (s : State) (v : Word) : (s.setResult v).estZ = s.estZ := (rfl)
@[simp] theorem setResult_estInfo (s : State) (v : Word) : (s.setResult v).estInfo = s.estInfo := (rfl)
@[simp] theorem setResult_hlen (s : State) (v : Word) : (s.setResult v).hlen = s.hlen := (rfl)
@[simp] theorem setResult_h1 (s : State) (v : Word) : (s.setResult v).h1 = s.h1 := (rfl)
@[simp] theorem setResult_h2 (s : State) (v : Word) : (s.setResult v).h2 = s.h2 := (rfl)
@[simp] theorem setResult_hopen (s : State) (v : Word) : (s.setResult v).hopen = s.hopen := (rfl)
@[simp] theorem setResult_dvalid (s : State) (v : Word) : (s.setResult v).dvalid = s.dvalid := (rfl)
@[simp] theorem setResult_prec (s : State) (v : Word) : (s.setResult v).prec = s.prec := (rfl)
@[simp] theorem setResult_err (s : State) (v : Word) : (s.setResult v).err = s.err := (rfl)
@[simp] theorem setResult_lastErr (s : State) (v : Word) : (s.setResult v).lastErr = s.lastErr := (rfl)
@[simp] theorem setResult_firstErr (s : State) (v : Word) : (s.setResult v).firstErr = s.firstErr := (rfl)
@[simp] theorem setResult_ie (s : State) (v : Word) : (s.setResult v).ie = s.ie := (rfl)
@[simp] theorem setResult_regs (s : State) (v : Word) : (s.setResult v).regs = s.regs := (rfl)
@[simp] theorem setResult_params (s : State) (v : Word) : (s.setResult v).params = s.params := (rfl)
@[simp] theorem setResult_draws (s : State) (v : Word) : (s.setResult v).draws = s.draws := (rfl)
@[simp] theorem setResult_resets (s : State) (v : Word) : (s.setResult v).resets = s.resets := (rfl)
@[simp] theorem setResult_pending (s : State) (v : Word) : (s.setResult v).pending = s.pending := (rfl)
@[simp] theorem setResult_response (s : State) (v : Word) : (s.setResult v).response = s.response := (rfl)

/-! ### `State.setHash` -/

@[simp] theorem setHash_data0 (s : State) (a b len : Word) : (s.setHash a b len).data0 = s.data0 := (rfl)
@[simp] theorem setHash_data1 (s : State) (a b len : Word) : (s.setHash a b len).data1 = s.data1 := (rfl)
@[simp] theorem setHash_digestHi (s : State) (a b len : Word) : (s.setHash a b len).digestHi = s.digestHi := (rfl)
@[simp] theorem setHash_digestLo (s : State) (a b len : Word) : (s.setHash a b len).digestLo = s.digestLo := (rfl)
@[simp] theorem setHash_result (s : State) (a b len : Word) : (s.setHash a b len).result = s.result := (rfl)
@[simp] theorem setHash_estZ (s : State) (a b len : Word) : (s.setHash a b len).estZ = s.estZ := (rfl)
@[simp] theorem setHash_estInfo (s : State) (a b len : Word) : (s.setHash a b len).estInfo = s.estInfo := (rfl)
@[simp] theorem setHash_hlen (s : State) (a b len : Word) : (s.setHash a b len).hlen = len := (rfl)
@[simp] theorem setHash_h1 (s : State) (a b len : Word) : (s.setHash a b len).h1 = a := (rfl)
@[simp] theorem setHash_h2 (s : State) (a b len : Word) : (s.setHash a b len).h2 = b := (rfl)
@[simp] theorem setHash_hopen (s : State) (a b len : Word) : (s.setHash a b len).hopen = s.hopen := (rfl)
@[simp] theorem setHash_dvalid (s : State) (a b len : Word) : (s.setHash a b len).dvalid = s.dvalid := (rfl)
@[simp] theorem setHash_prec (s : State) (a b len : Word) : (s.setHash a b len).prec = s.prec := (rfl)
@[simp] theorem setHash_err (s : State) (a b len : Word) : (s.setHash a b len).err = s.err := (rfl)
@[simp] theorem setHash_lastErr (s : State) (a b len : Word) : (s.setHash a b len).lastErr = s.lastErr := (rfl)
@[simp] theorem setHash_firstErr (s : State) (a b len : Word) : (s.setHash a b len).firstErr = s.firstErr := (rfl)
@[simp] theorem setHash_ie (s : State) (a b len : Word) : (s.setHash a b len).ie = s.ie := (rfl)
@[simp] theorem setHash_regs (s : State) (a b len : Word) : (s.setHash a b len).regs = s.regs := (rfl)
@[simp] theorem setHash_params (s : State) (a b len : Word) : (s.setHash a b len).params = s.params := (rfl)
@[simp] theorem setHash_draws (s : State) (a b len : Word) : (s.setHash a b len).draws = s.draws := (rfl)
@[simp] theorem setHash_resets (s : State) (a b len : Word) : (s.setHash a b len).resets = s.resets := (rfl)
@[simp] theorem setHash_pending (s : State) (a b len : Word) : (s.setHash a b len).pending = s.pending := (rfl)
@[simp] theorem setHash_response (s : State) (a b len : Word) : (s.setHash a b len).response = s.response := (rfl)

/-! ### `State.openHash` -/

@[simp] theorem openHash_data0 (s : State) : (s.openHash).data0 = s.data0 := (rfl)
@[simp] theorem openHash_data1 (s : State) : (s.openHash).data1 = s.data1 := (rfl)
@[simp] theorem openHash_digestHi (s : State) : (s.openHash).digestHi = s.digestHi := (rfl)
@[simp] theorem openHash_digestLo (s : State) : (s.openHash).digestLo = s.digestLo := (rfl)
@[simp] theorem openHash_result (s : State) : (s.openHash).result = s.result := (rfl)
@[simp] theorem openHash_estZ (s : State) : (s.openHash).estZ = s.estZ := (rfl)
@[simp] theorem openHash_estInfo (s : State) : (s.openHash).estInfo = s.estInfo := (rfl)
@[simp] theorem openHash_hlen (s : State) : (s.openHash).hlen = s.hlen := (rfl)
@[simp] theorem openHash_h1 (s : State) : (s.openHash).h1 = s.h1 := (rfl)
@[simp] theorem openHash_h2 (s : State) : (s.openHash).h2 = s.h2 := (rfl)
@[simp] theorem openHash_hopen (s : State) : (s.openHash).hopen = true := (rfl)
@[simp] theorem openHash_dvalid (s : State) : (s.openHash).dvalid = s.dvalid := (rfl)
@[simp] theorem openHash_prec (s : State) : (s.openHash).prec = s.prec := (rfl)
@[simp] theorem openHash_err (s : State) : (s.openHash).err = s.err := (rfl)
@[simp] theorem openHash_lastErr (s : State) : (s.openHash).lastErr = s.lastErr := (rfl)
@[simp] theorem openHash_firstErr (s : State) : (s.openHash).firstErr = s.firstErr := (rfl)
@[simp] theorem openHash_ie (s : State) : (s.openHash).ie = s.ie := (rfl)
@[simp] theorem openHash_regs (s : State) : (s.openHash).regs = s.regs := (rfl)
@[simp] theorem openHash_params (s : State) : (s.openHash).params = s.params := (rfl)
@[simp] theorem openHash_draws (s : State) : (s.openHash).draws = s.draws := (rfl)
@[simp] theorem openHash_resets (s : State) : (s.openHash).resets = s.resets := (rfl)
@[simp] theorem openHash_pending (s : State) : (s.openHash).pending = s.pending := (rfl)
@[simp] theorem openHash_response (s : State) : (s.openHash).response = s.response := (rfl)

/-! ### `State.setEstimate` -/

@[simp] theorem setEstimate_data0 (s : State) (est z info : Word) : (s.setEstimate est z info).data0 = s.data0 := (rfl)
@[simp] theorem setEstimate_data1 (s : State) (est z info : Word) : (s.setEstimate est z info).data1 = s.data1 := (rfl)
@[simp] theorem setEstimate_digestHi (s : State) (est z info : Word) : (s.setEstimate est z info).digestHi = s.digestHi := (rfl)
@[simp] theorem setEstimate_digestLo (s : State) (est z info : Word) : (s.setEstimate est z info).digestLo = s.digestLo := (rfl)
@[simp] theorem setEstimate_result (s : State) (est z info : Word) : (s.setEstimate est z info).result = est := (rfl)
@[simp] theorem setEstimate_estZ (s : State) (est z info : Word) : (s.setEstimate est z info).estZ = z := (rfl)
@[simp] theorem setEstimate_estInfo (s : State) (est z info : Word) : (s.setEstimate est z info).estInfo = info := (rfl)
@[simp] theorem setEstimate_hlen (s : State) (est z info : Word) : (s.setEstimate est z info).hlen = s.hlen := (rfl)
@[simp] theorem setEstimate_h1 (s : State) (est z info : Word) : (s.setEstimate est z info).h1 = s.h1 := (rfl)
@[simp] theorem setEstimate_h2 (s : State) (est z info : Word) : (s.setEstimate est z info).h2 = s.h2 := (rfl)
@[simp] theorem setEstimate_hopen (s : State) (est z info : Word) : (s.setEstimate est z info).hopen = s.hopen := (rfl)
@[simp] theorem setEstimate_dvalid (s : State) (est z info : Word) : (s.setEstimate est z info).dvalid = s.dvalid := (rfl)
@[simp] theorem setEstimate_prec (s : State) (est z info : Word) : (s.setEstimate est z info).prec = s.prec := (rfl)
@[simp] theorem setEstimate_err (s : State) (est z info : Word) : (s.setEstimate est z info).err = s.err := (rfl)
@[simp] theorem setEstimate_lastErr (s : State) (est z info : Word) : (s.setEstimate est z info).lastErr = s.lastErr := (rfl)
@[simp] theorem setEstimate_firstErr (s : State) (est z info : Word) : (s.setEstimate est z info).firstErr = s.firstErr := (rfl)
@[simp] theorem setEstimate_ie (s : State) (est z info : Word) : (s.setEstimate est z info).ie = s.ie := (rfl)
@[simp] theorem setEstimate_regs (s : State) (est z info : Word) : (s.setEstimate est z info).regs = s.regs := (rfl)
@[simp] theorem setEstimate_params (s : State) (est z info : Word) : (s.setEstimate est z info).params = s.params := (rfl)
@[simp] theorem setEstimate_draws (s : State) (est z info : Word) : (s.setEstimate est z info).draws = s.draws := (rfl)
@[simp] theorem setEstimate_resets (s : State) (est z info : Word) : (s.setEstimate est z info).resets = s.resets := (rfl)
@[simp] theorem setEstimate_pending (s : State) (est z info : Word) : (s.setEstimate est z info).pending = s.pending := (rfl)
@[simp] theorem setEstimate_response (s : State) (est z info : Word) : (s.setEstimate est z info).response = s.response := (rfl)

/-! ### `State.setData0` -/

@[simp] theorem setData0_data0 (s : State) (v : Word) : (s.setData0 v).data0 = v := (rfl)
@[simp] theorem setData0_data1 (s : State) (v : Word) : (s.setData0 v).data1 = s.data1 := (rfl)
@[simp] theorem setData0_digestHi (s : State) (v : Word) : (s.setData0 v).digestHi = s.digestHi := (rfl)
@[simp] theorem setData0_digestLo (s : State) (v : Word) : (s.setData0 v).digestLo = s.digestLo := (rfl)
@[simp] theorem setData0_result (s : State) (v : Word) : (s.setData0 v).result = s.result := (rfl)
@[simp] theorem setData0_estZ (s : State) (v : Word) : (s.setData0 v).estZ = s.estZ := (rfl)
@[simp] theorem setData0_estInfo (s : State) (v : Word) : (s.setData0 v).estInfo = s.estInfo := (rfl)
@[simp] theorem setData0_hlen (s : State) (v : Word) : (s.setData0 v).hlen = s.hlen := (rfl)
@[simp] theorem setData0_h1 (s : State) (v : Word) : (s.setData0 v).h1 = s.h1 := (rfl)
@[simp] theorem setData0_h2 (s : State) (v : Word) : (s.setData0 v).h2 = s.h2 := (rfl)
@[simp] theorem setData0_hopen (s : State) (v : Word) : (s.setData0 v).hopen = s.hopen := (rfl)
@[simp] theorem setData0_dvalid (s : State) (v : Word) : (s.setData0 v).dvalid = s.dvalid := (rfl)
@[simp] theorem setData0_prec (s : State) (v : Word) : (s.setData0 v).prec = s.prec := (rfl)
@[simp] theorem setData0_err (s : State) (v : Word) : (s.setData0 v).err = s.err := (rfl)
@[simp] theorem setData0_lastErr (s : State) (v : Word) : (s.setData0 v).lastErr = s.lastErr := (rfl)
@[simp] theorem setData0_firstErr (s : State) (v : Word) : (s.setData0 v).firstErr = s.firstErr := (rfl)
@[simp] theorem setData0_ie (s : State) (v : Word) : (s.setData0 v).ie = s.ie := (rfl)
@[simp] theorem setData0_regs (s : State) (v : Word) : (s.setData0 v).regs = s.regs := (rfl)
@[simp] theorem setData0_params (s : State) (v : Word) : (s.setData0 v).params = s.params := (rfl)
@[simp] theorem setData0_draws (s : State) (v : Word) : (s.setData0 v).draws = s.draws := (rfl)
@[simp] theorem setData0_resets (s : State) (v : Word) : (s.setData0 v).resets = s.resets := (rfl)
@[simp] theorem setData0_pending (s : State) (v : Word) : (s.setData0 v).pending = s.pending := (rfl)
@[simp] theorem setData0_response (s : State) (v : Word) : (s.setData0 v).response = s.response := (rfl)

/-! ### `State.setData1` -/

@[simp] theorem setData1_data0 (s : State) (v : Word) : (s.setData1 v).data0 = s.data0 := (rfl)
@[simp] theorem setData1_data1 (s : State) (v : Word) : (s.setData1 v).data1 = v := (rfl)
@[simp] theorem setData1_digestHi (s : State) (v : Word) : (s.setData1 v).digestHi = s.digestHi := (rfl)
@[simp] theorem setData1_digestLo (s : State) (v : Word) : (s.setData1 v).digestLo = s.digestLo := (rfl)
@[simp] theorem setData1_result (s : State) (v : Word) : (s.setData1 v).result = s.result := (rfl)
@[simp] theorem setData1_estZ (s : State) (v : Word) : (s.setData1 v).estZ = s.estZ := (rfl)
@[simp] theorem setData1_estInfo (s : State) (v : Word) : (s.setData1 v).estInfo = s.estInfo := (rfl)
@[simp] theorem setData1_hlen (s : State) (v : Word) : (s.setData1 v).hlen = s.hlen := (rfl)
@[simp] theorem setData1_h1 (s : State) (v : Word) : (s.setData1 v).h1 = s.h1 := (rfl)
@[simp] theorem setData1_h2 (s : State) (v : Word) : (s.setData1 v).h2 = s.h2 := (rfl)
@[simp] theorem setData1_hopen (s : State) (v : Word) : (s.setData1 v).hopen = s.hopen := (rfl)
@[simp] theorem setData1_dvalid (s : State) (v : Word) : (s.setData1 v).dvalid = s.dvalid := (rfl)
@[simp] theorem setData1_prec (s : State) (v : Word) : (s.setData1 v).prec = s.prec := (rfl)
@[simp] theorem setData1_err (s : State) (v : Word) : (s.setData1 v).err = s.err := (rfl)
@[simp] theorem setData1_lastErr (s : State) (v : Word) : (s.setData1 v).lastErr = s.lastErr := (rfl)
@[simp] theorem setData1_firstErr (s : State) (v : Word) : (s.setData1 v).firstErr = s.firstErr := (rfl)
@[simp] theorem setData1_ie (s : State) (v : Word) : (s.setData1 v).ie = s.ie := (rfl)
@[simp] theorem setData1_regs (s : State) (v : Word) : (s.setData1 v).regs = s.regs := (rfl)
@[simp] theorem setData1_params (s : State) (v : Word) : (s.setData1 v).params = s.params := (rfl)
@[simp] theorem setData1_draws (s : State) (v : Word) : (s.setData1 v).draws = s.draws := (rfl)
@[simp] theorem setData1_resets (s : State) (v : Word) : (s.setData1 v).resets = s.resets := (rfl)
@[simp] theorem setData1_pending (s : State) (v : Word) : (s.setData1 v).pending = s.pending := (rfl)
@[simp] theorem setData1_response (s : State) (v : Word) : (s.setData1 v).response = s.response := (rfl)

/-! ### `State.answer` -/

@[simp] theorem answer_data0 (s : State) (r : BusResponse) : (s.answer r).data0 = s.data0 := (rfl)
@[simp] theorem answer_data1 (s : State) (r : BusResponse) : (s.answer r).data1 = s.data1 := (rfl)
@[simp] theorem answer_digestHi (s : State) (r : BusResponse) : (s.answer r).digestHi = s.digestHi := (rfl)
@[simp] theorem answer_digestLo (s : State) (r : BusResponse) : (s.answer r).digestLo = s.digestLo := (rfl)
@[simp] theorem answer_result (s : State) (r : BusResponse) : (s.answer r).result = s.result := (rfl)
@[simp] theorem answer_estZ (s : State) (r : BusResponse) : (s.answer r).estZ = s.estZ := (rfl)
@[simp] theorem answer_estInfo (s : State) (r : BusResponse) : (s.answer r).estInfo = s.estInfo := (rfl)
@[simp] theorem answer_hlen (s : State) (r : BusResponse) : (s.answer r).hlen = s.hlen := (rfl)
@[simp] theorem answer_h1 (s : State) (r : BusResponse) : (s.answer r).h1 = s.h1 := (rfl)
@[simp] theorem answer_h2 (s : State) (r : BusResponse) : (s.answer r).h2 = s.h2 := (rfl)
@[simp] theorem answer_hopen (s : State) (r : BusResponse) : (s.answer r).hopen = s.hopen := (rfl)
@[simp] theorem answer_dvalid (s : State) (r : BusResponse) : (s.answer r).dvalid = s.dvalid := (rfl)
@[simp] theorem answer_prec (s : State) (r : BusResponse) : (s.answer r).prec = s.prec := (rfl)
@[simp] theorem answer_err (s : State) (r : BusResponse) : (s.answer r).err = s.err := (rfl)
@[simp] theorem answer_lastErr (s : State) (r : BusResponse) : (s.answer r).lastErr = s.lastErr := (rfl)
@[simp] theorem answer_firstErr (s : State) (r : BusResponse) : (s.answer r).firstErr = s.firstErr := (rfl)
@[simp] theorem answer_ie (s : State) (r : BusResponse) : (s.answer r).ie = s.ie := (rfl)
@[simp] theorem answer_regs (s : State) (r : BusResponse) : (s.answer r).regs = s.regs := (rfl)
@[simp] theorem answer_params (s : State) (r : BusResponse) : (s.answer r).params = s.params := (rfl)
@[simp] theorem answer_draws (s : State) (r : BusResponse) : (s.answer r).draws = s.draws := (rfl)
@[simp] theorem answer_resets (s : State) (r : BusResponse) : (s.answer r).resets = s.resets := (rfl)
@[simp] theorem answer_pending (s : State) (r : BusResponse) : (s.answer r).pending = s.pending := (rfl)
@[simp] theorem answer_response (s : State) (r : BusResponse) : (s.answer r).response = r := (rfl)

/-! ### `State.await` -/

@[simp] theorem await_data0 (s : State) (rest : List HostEvent) : (s.await rest).data0 = s.data0 := (rfl)
@[simp] theorem await_data1 (s : State) (rest : List HostEvent) : (s.await rest).data1 = s.data1 := (rfl)
@[simp] theorem await_digestHi (s : State) (rest : List HostEvent) : (s.await rest).digestHi = s.digestHi := (rfl)
@[simp] theorem await_digestLo (s : State) (rest : List HostEvent) : (s.await rest).digestLo = s.digestLo := (rfl)
@[simp] theorem await_result (s : State) (rest : List HostEvent) : (s.await rest).result = s.result := (rfl)
@[simp] theorem await_estZ (s : State) (rest : List HostEvent) : (s.await rest).estZ = s.estZ := (rfl)
@[simp] theorem await_estInfo (s : State) (rest : List HostEvent) : (s.await rest).estInfo = s.estInfo := (rfl)
@[simp] theorem await_hlen (s : State) (rest : List HostEvent) : (s.await rest).hlen = s.hlen := (rfl)
@[simp] theorem await_h1 (s : State) (rest : List HostEvent) : (s.await rest).h1 = s.h1 := (rfl)
@[simp] theorem await_h2 (s : State) (rest : List HostEvent) : (s.await rest).h2 = s.h2 := (rfl)
@[simp] theorem await_hopen (s : State) (rest : List HostEvent) : (s.await rest).hopen = s.hopen := (rfl)
@[simp] theorem await_dvalid (s : State) (rest : List HostEvent) : (s.await rest).dvalid = s.dvalid := (rfl)
@[simp] theorem await_prec (s : State) (rest : List HostEvent) : (s.await rest).prec = s.prec := (rfl)
@[simp] theorem await_err (s : State) (rest : List HostEvent) : (s.await rest).err = s.err := (rfl)
@[simp] theorem await_lastErr (s : State) (rest : List HostEvent) : (s.await rest).lastErr = s.lastErr := (rfl)
@[simp] theorem await_firstErr (s : State) (rest : List HostEvent) : (s.await rest).firstErr = s.firstErr := (rfl)
@[simp] theorem await_ie (s : State) (rest : List HostEvent) : (s.await rest).ie = s.ie := (rfl)
@[simp] theorem await_regs (s : State) (rest : List HostEvent) : (s.await rest).regs = s.regs := (rfl)
@[simp] theorem await_params (s : State) (rest : List HostEvent) : (s.await rest).params = s.params := (rfl)
@[simp] theorem await_draws (s : State) (rest : List HostEvent) : (s.await rest).draws = s.draws := (rfl)
@[simp] theorem await_resets (s : State) (rest : List HostEvent) : (s.await rest).resets = s.resets := (rfl)
@[simp] theorem await_pending (s : State) (rest : List HostEvent) : (s.await rest).pending = rest := (rfl)
@[simp] theorem await_response (s : State) (rest : List HostEvent) : (s.await rest).response = s.response := (rfl)

/-! ### `State.writeCtrl` -/

@[simp] theorem writeCtrl_data0 (s : State) (v : Word) : (s.writeCtrl v).data0 = s.data0 := (rfl)
@[simp] theorem writeCtrl_data1 (s : State) (v : Word) : (s.writeCtrl v).data1 = s.data1 := (rfl)
@[simp] theorem writeCtrl_digestHi (s : State) (v : Word) : (s.writeCtrl v).digestHi = s.digestHi := (rfl)
@[simp] theorem writeCtrl_digestLo (s : State) (v : Word) : (s.writeCtrl v).digestLo = s.digestLo := (rfl)
@[simp] theorem writeCtrl_result (s : State) (v : Word) : (s.writeCtrl v).result = s.result := (rfl)
@[simp] theorem writeCtrl_estZ (s : State) (v : Word) : (s.writeCtrl v).estZ = s.estZ := (rfl)
@[simp] theorem writeCtrl_estInfo (s : State) (v : Word) : (s.writeCtrl v).estInfo = s.estInfo := (rfl)
@[simp] theorem writeCtrl_hlen (s : State) (v : Word) : (s.writeCtrl v).hlen = s.hlen := (rfl)
@[simp] theorem writeCtrl_h1 (s : State) (v : Word) : (s.writeCtrl v).h1 = s.h1 := (rfl)
@[simp] theorem writeCtrl_h2 (s : State) (v : Word) : (s.writeCtrl v).h2 = s.h2 := (rfl)
@[simp] theorem writeCtrl_hopen (s : State) (v : Word) : (s.writeCtrl v).hopen = s.hopen := (rfl)
@[simp] theorem writeCtrl_dvalid (s : State) (v : Word) : (s.writeCtrl v).dvalid = s.dvalid := (rfl)
@[simp] theorem writeCtrl_prec (s : State) (v : Word) : (s.writeCtrl v).prec = s.prec := (rfl)
@[simp] theorem writeCtrl_err (s : State) (v : Word) : (s.writeCtrl v).err = s.err := (rfl)
@[simp] theorem writeCtrl_lastErr (s : State) (v : Word) : (s.writeCtrl v).lastErr = s.lastErr := (rfl)
@[simp] theorem writeCtrl_firstErr (s : State) (v : Word) : (s.writeCtrl v).firstErr = s.firstErr := (rfl)
@[simp] theorem writeCtrl_ie (s : State) (v : Word) : (s.writeCtrl v).ie = v.getLsbD 0 := (rfl)
@[simp] theorem writeCtrl_regs (s : State) (v : Word) : (s.writeCtrl v).regs = s.regs := (rfl)
@[simp] theorem writeCtrl_params (s : State) (v : Word) : (s.writeCtrl v).params = s.params := (rfl)
@[simp] theorem writeCtrl_draws (s : State) (v : Word) : (s.writeCtrl v).draws = s.draws := (rfl)
@[simp] theorem writeCtrl_resets (s : State) (v : Word) : (s.writeCtrl v).resets = s.resets := (rfl)
@[simp] theorem writeCtrl_pending (s : State) (v : Word) : (s.writeCtrl v).pending = s.pending := (rfl)
@[simp] theorem writeCtrl_response (s : State) (v : Word) : (s.writeCtrl v).response = s.response := (rfl)

/-! ### Views that these updates leave as they are -/

@[simp] theorem errorCompletion_p (s : State) (e : ErrCode) : (s.errorCompletion e).p = s.p := (rfl)
@[simp] theorem errorCompletion_m (s : State) (e : ErrCode) : (s.errorCompletion e).m = s.m := (rfl)
@[simp] theorem errorCompletion_configured (s : State) (e : ErrCode) : (s.errorCompletion e).configured = s.configured := (rfl)
@[simp] theorem errorCompletion_reg (s : State) (e : ErrCode) (i : Nat) : (s.errorCompletion e).reg i = s.reg i := (rfl)
@[simp] theorem successCompletion_p (s : State) : (s.successCompletion).p = s.p := (rfl)
@[simp] theorem successCompletion_m (s : State) : (s.successCompletion).m = s.m := (rfl)
@[simp] theorem successCompletion_configured (s : State) : (s.successCompletion).configured = s.configured := (rfl)
@[simp] theorem successCompletion_reg (s : State) (i : Nat) : (s.successCompletion).reg i = s.reg i := (rfl)
@[simp] theorem clearErrors_p (s : State) : (s.clearErrors).p = s.p := (rfl)
@[simp] theorem clearErrors_m (s : State) : (s.clearErrors).m = s.m := (rfl)
@[simp] theorem clearErrors_configured (s : State) : (s.clearErrors).configured = s.configured := (rfl)
@[simp] theorem clearErrors_reg (s : State) (i : Nat) : (s.clearErrors).reg i = s.reg i := (rfl)
@[simp] theorem forgetAccumulators_p (s : State) : (s.forgetAccumulators).p = s.p := (rfl)
@[simp] theorem forgetAccumulators_m (s : State) : (s.forgetAccumulators).m = s.m := (rfl)
@[simp] theorem forgetAccumulators_configured (s : State) : (s.forgetAccumulators).configured = s.configured := (rfl)
@[simp] theorem forgetAccumulators_reg (s : State) (i : Nat) : (s.forgetAccumulators).reg i = s.reg i := (rfl)
@[simp] theorem closeHash_p (s : State) (hi lo len : Word) : (s.closeHash hi lo len).p = s.p := (rfl)
@[simp] theorem closeHash_m (s : State) (hi lo len : Word) : (s.closeHash hi lo len).m = s.m := (rfl)
@[simp] theorem closeHash_configured (s : State) (hi lo len : Word) : (s.closeHash hi lo len).configured = s.configured := (rfl)
@[simp] theorem closeHash_reg (s : State) (hi lo len : Word) (i : Nat) : (s.closeHash hi lo len).reg i = s.reg i := (rfl)
@[simp] theorem finalised_p (s : State) (r : Nat) : (s.finalised r).p = s.p := closeHash_p s _ _ _
@[simp] theorem finalised_m (s : State) (r : Nat) : (s.finalised r).m = s.m := closeHash_m s _ _ _
@[simp] theorem finalised_configured (s : State) (r : Nat) : (s.finalised r).configured = s.configured := closeHash_configured s _ _ _
@[simp] theorem finalised_reg (s : State) (r : Nat) (i : Nat) : (s.finalised r).reg i = s.reg i := closeHash_reg s _ _ _ i
@[simp] theorem setResult_p (s : State) (v : Word) : (s.setResult v).p = s.p := (rfl)
@[simp] theorem setResult_m (s : State) (v : Word) : (s.setResult v).m = s.m := (rfl)
@[simp] theorem setResult_configured (s : State) (v : Word) : (s.setResult v).configured = s.configured := (rfl)
@[simp] theorem setResult_reg (s : State) (v : Word) (i : Nat) : (s.setResult v).reg i = s.reg i := (rfl)
@[simp] theorem setHash_p (s : State) (a b len : Word) : (s.setHash a b len).p = s.p := (rfl)
@[simp] theorem setHash_m (s : State) (a b len : Word) : (s.setHash a b len).m = s.m := (rfl)
@[simp] theorem setHash_configured (s : State) (a b len : Word) : (s.setHash a b len).configured = s.configured := (rfl)
@[simp] theorem setHash_reg (s : State) (a b len : Word) (i : Nat) : (s.setHash a b len).reg i = s.reg i := (rfl)
@[simp] theorem openHash_p (s : State) : (s.openHash).p = s.p := (rfl)
@[simp] theorem openHash_m (s : State) : (s.openHash).m = s.m := (rfl)
@[simp] theorem openHash_configured (s : State) : (s.openHash).configured = s.configured := (rfl)
@[simp] theorem openHash_reg (s : State) (i : Nat) : (s.openHash).reg i = s.reg i := (rfl)
@[simp] theorem setEstimate_p (s : State) (est z info : Word) : (s.setEstimate est z info).p = s.p := (rfl)
@[simp] theorem setEstimate_m (s : State) (est z info : Word) : (s.setEstimate est z info).m = s.m := (rfl)
@[simp] theorem setEstimate_configured (s : State) (est z info : Word) : (s.setEstimate est z info).configured = s.configured := (rfl)
@[simp] theorem setEstimate_reg (s : State) (est z info : Word) (i : Nat) : (s.setEstimate est z info).reg i = s.reg i := (rfl)
@[simp] theorem setData0_p (s : State) (v : Word) : (s.setData0 v).p = s.p := (rfl)
@[simp] theorem setData0_m (s : State) (v : Word) : (s.setData0 v).m = s.m := (rfl)
@[simp] theorem setData0_configured (s : State) (v : Word) : (s.setData0 v).configured = s.configured := (rfl)
@[simp] theorem setData0_reg (s : State) (v : Word) (i : Nat) : (s.setData0 v).reg i = s.reg i := (rfl)
@[simp] theorem setData1_p (s : State) (v : Word) : (s.setData1 v).p = s.p := (rfl)
@[simp] theorem setData1_m (s : State) (v : Word) : (s.setData1 v).m = s.m := (rfl)
@[simp] theorem setData1_configured (s : State) (v : Word) : (s.setData1 v).configured = s.configured := (rfl)
@[simp] theorem setData1_reg (s : State) (v : Word) (i : Nat) : (s.setData1 v).reg i = s.reg i := (rfl)
@[simp] theorem answer_p (s : State) (r : BusResponse) : (s.answer r).p = s.p := (rfl)
@[simp] theorem answer_m (s : State) (r : BusResponse) : (s.answer r).m = s.m := (rfl)
@[simp] theorem answer_configured (s : State) (r : BusResponse) : (s.answer r).configured = s.configured := (rfl)
@[simp] theorem answer_reg (s : State) (r : BusResponse) (i : Nat) : (s.answer r).reg i = s.reg i := (rfl)
@[simp] theorem await_p (s : State) (rest : List HostEvent) : (s.await rest).p = s.p := (rfl)
@[simp] theorem await_m (s : State) (rest : List HostEvent) : (s.await rest).m = s.m := (rfl)
@[simp] theorem await_configured (s : State) (rest : List HostEvent) : (s.await rest).configured = s.configured := (rfl)
@[simp] theorem await_reg (s : State) (rest : List HostEvent) (i : Nat) : (s.await rest).reg i = s.reg i := (rfl)
@[simp] theorem writeCtrl_p (s : State) (v : Word) : (s.writeCtrl v).p = s.p := (rfl)
@[simp] theorem writeCtrl_m (s : State) (v : Word) : (s.writeCtrl v).m = s.m := (rfl)
@[simp] theorem writeCtrl_configured (s : State) (v : Word) : (s.writeCtrl v).configured = s.configured := (rfl)
@[simp] theorem writeCtrl_reg (s : State) (v : Word) (i : Nat) : (s.writeCtrl v).reg i = s.reg i := (rfl)
@[simp] theorem raiseReg_p (s : State) (i v : Nat) : (s.raiseReg i v).p = s.p := (rfl)
@[simp] theorem raiseReg_m (s : State) (i v : Nat) : (s.raiseReg i v).m = s.m := (rfl)
@[simp] theorem raiseReg_configured (s : State) (i v : Nat) : (s.raiseReg i v).configured = s.configured := (rfl)
@[simp] theorem registerUpdate_p (s : State) (d : BitVec 128) : (s.registerUpdate d).p = s.p := (rfl)
@[simp] theorem registerUpdate_m (s : State) (d : BitVec 128) : (s.registerUpdate d).m = s.m := (rfl)
@[simp] theorem registerUpdate_configured (s : State) (d : BitVec 128) : (s.registerUpdate d).configured = s.configured := (rfl)

/-! ### The completions -/

@[simp] theorem fail_eq (e : ErrCode) (s : State) : fail e s = .next (s.errorCompletion e) := rfl

@[simp] theorem succeed_eq (s : State) : succeed s = .next s.successCompletion := rfl

end Sys2Proof.Laws
end

