-- ==== Sys2Proof/Laws/Ops.lean ====
section
/-! SUPPORT. What each shared operation can do, said once: the operand functions, the register update, the
completions. -/

namespace Sys2Proof.Laws

open Sys2Proof.Machine

/-! ### Word operators -/

/-- `bitlen` is the least `n` with `x < 2^n` (R9). -/
theorem bitlen_le_iff (x n : Nat) : bitlen x ≤ n ↔ x < 2 ^ n := by
  unfold bitlen
  split
  · subst_vars
    simp
  · rename_i hx
    rw [Nat.add_one_le_iff, Nat.log2_lt hx]

theorem rankOf_eq_some {w mb : Nat} (h : w < 2 ^ mb) : rankOf w mb = some (mb - bitlen w + 1) :=
  if_neg (Nat.not_lt.2 ((bitlen_le_iff w mb).2 h))

theorem rankOf_eq_none {w mb : Nat} (h : 2 ^ mb ≤ w) : rankOf w mb = none :=
  if_pos (Nat.not_le.1 fun hle => absurd ((bitlen_le_iff w mb).1 hle) (Nat.not_lt.2 h))

theorem rankOf_none_iff (w mb : Nat) : rankOf w mb = none ↔ 2 ^ mb ≤ w := by
  rcases Nat.lt_or_ge w (2 ^ mb) with h | h
  · simp [rankOf_eq_some h, h]
  · simp [rankOf_eq_none h, h]

/-- The remainder of an update word has `32 - P` bits (R151). -/
theorem updateRemainder_lt (w : BitVec 32) {p : Nat} (hp : p ≤ 32) : updateRemainder w p < 2 ^ (32 - p) := by
  rw [updateRemainder, Nat.div_lt_iff_lt_mul (by positivity), ← Nat.pow_add, Nat.sub_add_cancel hp]
  exact w.isLt

theorem updateIndex_lt (w : BitVec 32) (p : Nat) : updateIndex w p < 2 ^ p := Nat.mod_lt _ (by positivity)

theorem updateRank_eq (w : BitVec 32) {p : Nat} (hp : p ≤ 32) :
    rankOf (updateRemainder w p) (32 - p) = some (updateRank w p) := by
  simp [updateRank, rankOf_eq_some (updateRemainder_lt w hp)]

/-- The rank of an update is in `1 .. 33 - P` (R151). -/
theorem updateRank_range (w : BitVec 32) {p : Nat} (hp : p ≤ 32) : 1 ≤ updateRank w p ∧ updateRank w p ≤ 33 - p := by
  have h := updateRank_eq w hp
  rw [rankOf_eq_some (updateRemainder_lt w hp)] at h
  have := Option.some.inj h
  omega

/-! ### The estimator -/

@[simp] theorem maxEntry_toNat (old : Entry) {v : Nat} (h : v ≤ 31) : (maxEntry old v).toNat = max old.toNat v := by
  have := old.isLt
  rw [maxEntry, BitVec.toNat_ofNat, Nat.mod_eq_of_lt (by omega)]

theorem maxEntry_ge (old : Entry) {v : Nat} (h : v ≤ 31) : old.toNat ≤ (maxEntry old v).toNat := by
  rw [maxEntry_toNat old h]
  exact Nat.le_max_left _ _

@[simp] theorem configured_eq_true (s : State) : s.configured = true ↔ s.prec ≠ 0 := by simp [State.configured]

@[simp] theorem configured_eq_false (s : State) : s.configured = false ↔ s.prec = 0 := by simp [State.configured]

theorem reg_of_configured {s : State} (h : s.prec ≠ 0) (i : Nat) : s.reg i = RegFile.get s.regs i :=
  if_pos ((configured_eq_true s).2 h)

/-- The entries after a maximum into one of them (R152, R190). -/
theorem reg_raiseReg {s : State} (hc : RegFile.Canonical s.regs) (h : s.prec ≠ 0) (i v j : Nat) :
    (s.raiseReg i v).reg j = if j = i then maxEntry (s.reg i) v else s.reg j := by
  rw [reg_of_configured (s := s.raiseReg i v) h, raiseReg_regs, get_set hc]
  split
  · rfl
  · rw [reg_of_configured h]

theorem toNat_prec_ofNat {p : Nat} (h : p ≤ 16) : (BitVec.ofNat 5 p).toNat = p :=
  (BitVec.toNat_ofNat _ _).trans (Nat.mod_eq_of_lt (by omega))

theorem construct_p (s : State) {p : Nat} (h : p ≤ 16) : (s.construct p).p = p := toNat_prec_ofNat h

theorem prec_ne_zero_of_p {s : State} (h : 4 ≤ s.p) : s.prec ≠ 0 := by
  intro h0
  rw [State.p, h0] at h
  exact absurd h (by decide)

theorem p_ne_zero {s : State} (h : s.prec ≠ 0) : s.p ≠ 0 := fun h0 => h (BitVec.eq_of_toNat_eq h0)

/-- A configured state of the invariant has a precision in 4..16 (R37). -/
theorem Inv_prec_range {s : State} (hi : s.Inv) (h : s.prec ≠ 0) : 4 ≤ s.p ∧ s.p ≤ 16 := by
  rcases hi.precLegal with h0 | h1
  · exact absurd h0 (p_ne_zero h)
  · exact h1

theorem Inv_m_le {s : State} (hi : s.Inv) : 2 ^ s.p ≤ 65536 := by
  rcases hi.precLegal with h0 | h1
  · simp [h0]
  · calc 2 ^ s.p ≤ 2 ^ 16 := Nat.pow_le_pow_right (by norm_num) h1.2
      _ = 65536 := by norm_num

/-- After `EINIT` every entry is 0 (R132). -/
theorem construct_reg (s : State) {p : Nat} (h4 : 4 ≤ p) (h16 : p ≤ 16) (i : Nat) : (s.construct p).reg i = 0 := by
  have h : (s.construct p).prec ≠ 0 := prec_ne_zero_of_p (by rw [construct_p s h16]; exact h4)
  rw [reg_of_configured h, construct_regs, get_nil]

/-- The register update is a maximum into the entry the digest selects (R152). -/
theorem registerUpdate_eq (s : State) (d : BitVec 128) :
    s.registerUpdate d = s.raiseReg (updateIndex (updateWord d s.params.updBitOffset) s.p)
      (updateRank (updateWord d s.params.updBitOffset) s.p) := rfl

/-! ### Completions -/

theorem code_ne_zero (e : ErrCode) : e.code ≠ 0 := by cases e <;> decide

theorem code_le_seven (e : ErrCode) : e.code.toNat ≤ 7 := by cases e <;> decide

end Sys2Proof.Laws
end

