-- ==== Sys2Proof/Laws/Card.lean ====
section
/-! SUPPORT. The sums of `CARD` as finite sums, their bounds (R171, R172), and the exact logarithm. -/

namespace Sys2Proof.Laws

open Sys2Proof.Machine

theorem sumPow_eq (f : Nat → Nat) (lo p : Nat) : sumPow f lo p = ∑ i ∈ Finset.range (2 ^ p), f (lo + i) := by
  induction p generalizing lo with
  | zero => simp [sumPow]
  | succ p ih =>
    rw [sumPow, ih, ih, pow_succ, Nat.mul_two, Finset.sum_range_add]
    simp only [Nat.add_assoc]

theorem harmonicSum_eq (s : State) : s.harmonicSum = ∑ i ∈ Finset.range (2 ^ s.p), 2 ^ (32 - (s.reg i).toNat) := by
  simp [State.harmonicSum, sumPow_eq]

theorem zeroCount_eq (s : State) : s.zeroCount = ((Finset.range (2 ^ s.p)).filter (fun i => s.reg i = 0)).card := by
  rw [State.zeroCount, sumPow_eq, Finset.card_filter]
  simp

/-- `2m ≤ Zi ≤ 2^32 m` (R171). -/
theorem harmonicSum_bounds (s : State) : 2 * s.m ≤ s.harmonicSum ∧ s.harmonicSum ≤ 2 ^ 32 * s.m := by
  rw [harmonicSum_eq, State.m]
  constructor
  · calc 2 * 2 ^ s.p = ∑ _i ∈ Finset.range (2 ^ s.p), 2 := by simp [Nat.mul_comm]
      _ ≤ _ := Finset.sum_le_sum fun i _ => by
        have := (s.reg i).isLt
        exact Nat.le_self_pow (by omega) 2
  · calc _ ≤ ∑ _i ∈ Finset.range (2 ^ s.p), 2 ^ 32 :=
        Finset.sum_le_sum fun i _ => Nat.pow_le_pow_right (by norm_num) (Nat.sub_le _ _)
      _ = 2 ^ 32 * 2 ^ s.p := by simp [Nat.mul_comm]

theorem harmonicSum_pos (s : State) : 0 < s.harmonicSum :=
  Nat.lt_of_lt_of_le (Nat.mul_pos (by norm_num) (Nat.pow_pos (by norm_num))) (harmonicSum_bounds s).1

theorem zeroCount_le (s : State) : s.zeroCount ≤ s.m := by
  rw [zeroCount_eq, State.m]
  exact (Finset.card_filter_le _ _).trans (Finset.card_range _).le

theorem m_le_of_p {s : State} (h : s.p ≤ 16) : s.m ≤ 65536 := by
  rw [State.m]
  calc 2 ^ s.p ≤ 2 ^ 16 := Nat.pow_le_pow_right (by norm_num) h
    _ = 65536 := by norm_num

theorem alphaInt_lt (p : Nat) : alphaInt p < 2 ^ 32 := by
  unfold alphaInt
  split <;> exact BitVec.isLt _

/-- The truncated logarithm is exact (R174). -/
theorem floorLog_eq (k : Nat) {a b : Nat} (hb : 0 < b) (hab : b ≤ a) :
    floorLog k a b = ⌊(k : ℝ) * Real.log (a / b)⌋₊ := by
  unfold floorLog
  split
  · rename_i h
    exact floorLow_eq_of_decided hb hab h
  · rw [dif_pos ⟨hb, hab⟩]
    exact floorLow_eq_of_decided hb hab (Nat.find_spec (exists_decided k a b ⟨hb, hab⟩))

end Sys2Proof.Laws
end

