-- ==== Sys2Proof/Laws/Decode.lean ====
section
/-! SUPPORT. The opcode table: a row is its opcode's row, and two rows never admit one word (R77). -/

namespace Sys2Proof.Laws

theorem mem_opcodeTable {r : Row} : r ∈ opcodeTable ↔ r = r.op.row := by
  constructor
  · intro h
    simp only [opcodeTable, List.mem_cons, List.not_mem_nil, or_false] at h
    rcases h with h | h | h | h | h | h | h | h | h | h | h | h <;> rw [h] <;> rfl
  · intro h
    rw [h]
    cases r.op <;> decide

/-- Every mask includes `OPC`, so a row that admits a word fixes the word's opcode byte (R77). -/
theorem opcode_of_admits {op : Opcode} {c : Word} (h : op.row.admits c = true) : c &&& 0xFF = op.code := by
  have h1 : c &&& op.mask = op.code := by simpa [Row.admits, Opcode.row] using h
  have h2 : op.mask &&& 0xFF = 0xFF := by cases op <;> decide
  have h3 : op.code &&& 0xFF = op.code := by cases op <;> decide
  calc c &&& 0xFF = c &&& (op.mask &&& 0xFF) := by rw [h2]
    _ = (c &&& op.mask) &&& 0xFF := (BitVec.and_assoc _ _ _).symm
    _ = op.code := by rw [h1, h3]

theorem code_injective {a b : Opcode} (h : a.code = b.code) : a = b := by
  revert h
  cases a <;> cases b <;> decide

/-- The decoder reads the only row that admits a word (R77). -/
theorem decode_of_admits {op : Opcode} {c : Word} (h : op.row.admits c = true) :
    decode c = .ok (op.withOperands c) := by
  have hmem : op.row ∈ opcodeTable := mem_opcodeTable.2 rfl
  unfold decode
  cases hf : opcodeTable.find? (fun r => r.admits c) with
  | none => exact absurd h (by simpa using List.find?_eq_none.1 hf op.row hmem)
  | some r =>
    have hr := List.find?_some hf
    have hrow := mem_opcodeTable.1 (List.mem_of_find?_eq_some hf)
    rw [hrow] at hr
    have hop : r.op = op := code_injective ((opcode_of_admits hr).symm.trans (opcode_of_admits h))
    simp only [hop]

/-- What a word that decodes is (R77). -/
theorem admits_of_decode {c : Word} {i : Instr} (h : decode c = .ok i) :
    ∃ op : Opcode, op.row.admits c = true ∧ i = op.withOperands c := by
  unfold decode at h
  cases hf : opcodeTable.find? (fun r => r.admits c) with
  | none => simp [hf] at h
  | some r =>
    simp only [hf, Except.ok.injEq] at h
    have hr := List.find?_some hf
    rw [mem_opcodeTable.1 (List.mem_of_find?_eq_some hf)] at hr
    exact ⟨r.op, hr, h.symm⟩

/-- A word that no row admits is illegal. -/
theorem decode_of_no_row {c : Word} (h : ∀ op : Opcode, op.row.admits c = false) :
    decode c = .error (illegalReason c) := by
  unfold decode
  have : opcodeTable.find? (fun r => r.admits c) = none := by
    rw [List.find?_eq_none]
    intro r hr
    rw [mem_opcodeTable.1 hr, h r.op]
    simp
  rw [this]

end Sys2Proof.Laws
end

