-- ==== Sys2Proof/Laws/Step.lean ====
section
/-! SUPPORT. What each command and a step can do, said once: one lemma of cases per command whose checks can
fail, the accesses the block admits, and the step on each kind of event. -/

namespace Sys2Proof.Laws

open Sys2Proof.Machine

/-- The digest of `HFINAL` in the accumulators, the tail and the total length (R112). -/
theorem finishedDigest_eq (s : State) (r : Nat) : s.finishedDigest r =
    finalStep (tailStep s.h1 s.h2 s.data0 s.data1 r).1 (tailStep s.h1 s.h2 s.data0 s.data1 r).2
      (s.hlen + BitVec.ofNat 64 r) := (rfl)

/-! ### Commands: how each of them can end -/

theorem execHblock_cases (s : State) :
    (s.hopen = false ∧ execHblock s = .next (s.errorCompletion .seq)) ∨
    (s.hopen = true ∧ execHblock s = .next (s.setHash (blockStep s.h1 s.h2 s.data0 s.data1).1
      (blockStep s.h1 s.h2 s.data0 s.data1).2 (s.hlen + 16)).successCompletion) := by
  cases h : s.hopen
  · exact .inl ⟨rfl, if_pos h⟩
  · exact .inr ⟨rfl, if_neg (by simp [h])⟩

theorem execHfinal_cases (r : Nat) (add : Bool) (s : State) :
    (add = true ∧ s.prec = 0 ∧ execHfinal r add s = .next (s.errorCompletion .noCfg)) ∨
    ((add = true → s.prec ≠ 0) ∧ s.hopen = false ∧ execHfinal r add s = .next (s.errorCompletion .seq)) ∨
    (add = true ∧ s.prec ≠ 0 ∧ s.hopen = true ∧ execHfinal r add s =
      .next ((s.finalised r).registerUpdate (digestOf (s.finishedDigest r).1 (s.finishedDigest r).2)).successCompletion) ∨
    (add = false ∧ s.hopen = true ∧ execHfinal r add s = .next (s.finalised r).successCompletion) := by
  by_cases hp : s.prec = 0#5 <;> cases h : s.hopen <;> cases add <;> simp [execHfinal, hp, h]

theorem execEinit_cases (p : Nat) (s : State) :
    ((p < 4 ∨ 16 < p) ∧ execEinit p s = .next (s.errorCompletion .domain)) ∨
    (4 ≤ p ∧ p ≤ 16 ∧ execEinit p s = .next (s.construct p).successCompletion) := by
  by_cases h : p < 4 ∨ 16 < p
  · exact .inl ⟨h, if_pos h⟩
  · exact .inr ⟨by omega, by omega, if_neg h⟩

theorem execAlpha_cases (p : Nat) (s : State) :
    (alphaRom p = none ∧ execAlpha p s = .next (s.errorCompletion .domain)) ∨
    (∃ a, alphaRom p = some a ∧ execAlpha p s = .next (s.setResult (a.setWidth 64)).successCompletion) := by
  cases h : alphaRom p <;> simp [execAlpha, h]

theorem execRank_cases (mb : Nat) (s : State) :
    (2 ^ mb ≤ s.data0.toNat ∧ execRank mb s = .next (s.errorCompletion .domain)) ∨
    (s.data0.toNat < 2 ^ mb ∧ execRank mb s =
      .next (s.setResult (BitVec.ofNat 64 (mb - bitlen s.data0.toNat + 1))).successCompletion) := by
  rcases Nat.lt_or_ge s.data0.toNat (2 ^ mb) with h | h
  · exact .inr ⟨h, by simp [execRank, rankOf_eq_some h]⟩
  · exact .inl ⟨h, by simp [execRank, rankOf_eq_none h]⟩

theorem execRupd_cases (s : State) :
    (s.prec = 0 ∧ execRupd s = .next (s.errorCompletion .noCfg)) ∨
    (s.prec ≠ 0 ∧ s.dvalid = false ∧ execRupd s = .next (s.errorCompletion .seq)) ∨
    (s.prec ≠ 0 ∧ s.dvalid = true ∧
      execRupd s = .next (s.registerUpdate (digestOf s.digestHi s.digestLo)).successCompletion) := by
  by_cases hp : s.prec = 0#5 <;> cases h : s.dvalid <;> simp [execRupd, hp, h]

theorem execRmax_cases (i v ps : Nat) (s : State) :
    (s.prec = 0 ∧ execRmax i v ps s = .next (s.errorCompletion .noCfg)) ∨
    (s.prec ≠ 0 ∧ ps ≠ s.p ∧ execRmax i v ps s = .next (s.errorCompletion .prec)) ∨
    (s.prec ≠ 0 ∧ ps = s.p ∧ 2 ^ s.p ≤ i ∧ execRmax i v ps s = .next (s.errorCompletion .index)) ∨
    (s.prec ≠ 0 ∧ ps = s.p ∧ i < 2 ^ s.p ∧ 31 < v ∧ execRmax i v ps s = .next (s.errorCompletion .value)) ∨
    (s.prec ≠ 0 ∧ ps = s.p ∧ i < 2 ^ s.p ∧ v ≤ 31 ∧ execRmax i v ps s = .next (s.raiseReg i v).successCompletion) := by
  by_cases hp : s.prec = 0#5
  · simp [execRmax, hp]
  by_cases hps : ps = s.p
  · rcases Nat.lt_or_ge i (2 ^ s.p) with hi | hi
    · rcases Nat.lt_or_ge 31 v with hv | hv
      · have h1 : ¬ 2 ^ s.p ≤ i := by omega
        have h2 : ¬ v ≤ 31 := by omega
        simp [execRmax, State.m, hp, hps, hi, hv, h1, h2]
      · have h1 : ¬ 2 ^ s.p ≤ i := by omega
        have h2 : ¬ 31 < v := by omega
        simp [execRmax, State.m, hp, hps, hi, hv, h1, h2]
    · have h1 : ¬ i < 2 ^ s.p := by omega
      simp [execRmax, State.m, hp, hps, hi, h1]
  · simp [execRmax, hp, hps]

theorem execRread_cases (i : Nat) (s : State) :
    (s.prec = 0 ∧ execRread i s = .next (s.errorCompletion .noCfg)) ∨
    (s.prec ≠ 0 ∧ 2 ^ s.p ≤ i ∧ execRread i s = .next (s.errorCompletion .index)) ∨
    (s.prec ≠ 0 ∧ i < 2 ^ s.p ∧ execRread i s = .next (s.setResult ((s.reg i).setWidth 64)).successCompletion) := by
  by_cases hp : s.prec = 0#5
  · simp [execRread, hp]
  rcases Nat.lt_or_ge i (2 ^ s.p) with hi | hi
  · have h1 : ¬ 2 ^ s.p ≤ i := by omega
    simp [execRread, State.m, hp, hi, h1]
  · have h1 : ¬ i < 2 ^ s.p := by omega
    simp [execRread, State.m, hp, hi, h1]

theorem execCard_cases (s : State) :
    (s.prec = 0 ∧ execCard s = .next (s.errorCompletion .noCfg)) ∨
    (s.prec ≠ 0 ∧ selectRegion s.scaledNumerator s.harmonicSum s.zeroCount s.m = none ∧
      execCard s = .next (s.errorCompletion .domain)) ∨
    (∃ r, s.prec ≠ 0 ∧ selectRegion s.scaledNumerator s.harmonicSum s.zeroCount s.m = some r ∧
      execCard s = .next (s.setEstimate
        (BitVec.ofNat 64 (estimate r s.scaledNumerator s.harmonicSum s.zeroCount s.m))
        (BitVec.ofNat 64 s.harmonicSum) (infoWord s.zeroCount r)).successCompletion) := by
  by_cases hp : s.prec = 0#5
  · simp [execCard, hp]
  · cases h : selectRegion s.scaledNumerator s.harmonicSum s.zeroCount s.m <;> simp [execCard, hp, h]

/-! ### The bus -/

theorem admittedOffset_eq_some {base addr bytes off : Nat} (h : admittedOffset base addr bytes = some off) :
    bytes = 8 ∧ addr = base + off ∧ off < 256 ∧ off % 8 = 0 := by
  unfold admittedOffset at h
  split at h
  · rename_i hc
    obtain ⟨h1, h2, h3, h4⟩ := hc
    have := Option.some.inj h
    simp only [Config.busBytes, Config.windowBytes] at h1 h3
    subst this
    exact ⟨h1, by omega, by omega, h4⟩
  · exact absurd h (by simp)

theorem admittedOffset_of_aligned (base : Nat) {off : Nat} (h : off < 256) (h8 : off % 8 = 0) :
    admittedOffset base (base + off) 8 = some off := by
  have h1 : base + off - base = off := Nat.add_sub_cancel_left _ _
  unfold admittedOffset
  rw [if_pos ⟨rfl, Nat.le_add_right _ _, Nat.add_lt_add_left h _, by rw [h1]; exact h8⟩, h1]

theorem admittedOffset_of_refused (base : Nat) {off bytes : Nat} (h : bytes ≠ 8 ∨ off % 8 ≠ 0) :
    admittedOffset base (base + off) bytes = none := by
  have h1 : base + off - base = off := Nat.add_sub_cancel_left _ _
  unfold admittedOffset
  refine if_neg fun hc => ?_
  obtain ⟨h2, -, -, h4⟩ := hc
  rw [h1] at h4
  rcases h with h | h
  · exact h h2
  · exact h h4

theorem admittedOffset_of_outside {base addr : Nat} (bytes : Nat) (h : addr < base ∨ base + 256 ≤ addr) :
    admittedOffset base addr bytes = none := by
  unfold admittedOffset
  refine if_neg fun hc => ?_
  obtain ⟨-, h2, h3, -⟩ := hc
  simp only [Config.windowBytes] at h3
  omega

theorem busRegAt_offset (r : BusReg) : busRegAt r.offset = some r := by cases r <;> rfl

theorem busRegAt_reserved {off : Nat} (h : 0x70 ≤ off) : busRegAt off = none := by
  unfold busRegAt
  rw [List.find?_eq_none]
  intro r hr
  have : r.offset ≤ 0x68 := by cases r <;> decide
  simp only [beq_iff_eq]
  omega

/-! ### The step on each kind of event -/

theorem step_idle {s : State} (h : s.pending = []) : step s = .next s := by simp [step, h]

theorem step_cons {s : State} {e : HostEvent} {rest : List HostEvent} (h : s.pending = e :: rest) :
    step s = accept e (s.await rest) := by simp [step, h]

/-- A step that takes an admitted write to `CMD` is the command (R70). -/
theorem step_cmd {s : State} {c : Word} {rest : List HostEvent}
    (h : s.pending = .write (s.params.base + 0x18) 8 c :: rest) :
    step s = runCommand c ((s.await rest).answer .writeDone) := by
  rw [step_cons h]
  simp only [accept, await_params, admittedOffset_of_aligned s.params.base (off := 0x18) (by norm_num) (by norm_num)]
  rfl

/-- What a step can do: nothing, answer a read, ignore or refuse a write, write `CTRL`, `DATA0` or `DATA1`, run a command,
or reset (R14, R51, R52, R250). -/
theorem step_cases {s t : State} (h : step s = .next t) :
    (s.pending = [] ∧ t = s) ∨
    (∃ rest r, t = (s.await rest).answer r) ∨
    (∃ rest v, t = ((s.await rest).answer .writeDone).writeCtrl v) ∨
    (∃ rest v, t = ((s.await rest).answer .writeDone).setData0 v) ∨
    (∃ rest v, t = ((s.await rest).answer .writeDone).setData1 v) ∨
    (∃ rest c, s.pending = .write (s.params.base + 0x18) 8 c :: rest ∧
      runCommand c ((s.await rest).answer .writeDone) = .next t) ∨
    (∃ rest, s.pending = .reset :: rest ∧ t = (s.await rest).resetBlock) := by
  cases hp : s.pending with
  | nil => exact .inl ⟨rfl, (Host.Outcome.next.inj ((step_idle hp).symm.trans h)).symm⟩
  | cons e rest =>
    rw [step_cons hp] at h
    cases e with
    | reset => exact .inr (.inr (.inr (.inr (.inr (.inr ⟨rest, rfl, (Host.Outcome.next.inj h).symm⟩)))))
    | read addr bytes =>
      simp only [accept] at h
      split at h <;> exact .inr (.inl ⟨rest, _, (Host.Outcome.next.inj h).symm⟩)
    | write addr bytes v =>
      simp only [accept] at h
      split at h
      · rename_i off hoff
        obtain ⟨hb, ha, -, -⟩ := admittedOffset_eq_some hoff
        unfold writeWindow at h
        split at h
        · rename_i r hr
          have hro : r.offset = off := by simpa using List.find?_some hr
          cases r with
          | cmd =>
            refine .inr (.inr (.inr (.inr (.inr (.inl ⟨rest, v, ?_, h⟩)))))
            rw [hb, ha, ← hro]
            rfl
          | ctrl => exact .inr (.inr (.inl ⟨rest, v, (Host.Outcome.next.inj h).symm⟩))
          | data0 => exact .inr (.inr (.inr (.inl ⟨rest, v, (Host.Outcome.next.inj h).symm⟩)))
          | data1 => exact .inr (.inr (.inr (.inr (.inl ⟨rest, v, (Host.Outcome.next.inj h).symm⟩))))
          | id | status | digestHi | digestLo | result | estZ | estInfo | hlen | alpha | param =>
            exact .inr (.inl ⟨rest, _, (Host.Outcome.next.inj h).symm⟩)
        · exact .inr (.inl ⟨rest, _, (Host.Outcome.next.inj h).symm⟩)
      · exact .inr (.inl ⟨rest, _, (Host.Outcome.next.inj h).symm⟩)

end Sys2Proof.Laws
end

