-- ==== Sys2Proof/Laws/Inv.lean ====
section
/-! SUPPORT. The shared operations keep the invariant (R40). -/

namespace Sys2Proof.Laws

open Sys2Proof.Machine

theorem inv_errorCompletion {s : State} (h : s.Inv) (e : ErrCode) : (s.errorCompletion e).Inv where
  precLegal := h.precLegal
  regsCanonical := h.regsCanonical
  regsAddressable := h.regsAddressable
  noErrNoFirst := by simp
  errFirst := fun _ => by
    rw [errorCompletion_firstErr]
    split
    · exact h.errFirst (by assumption)
    · exact code_ne_zero e
  lastErrLegal := ⟨code_le_seven e, fun _ => rfl⟩
  firstErrLegal := by
    rw [errorCompletion_firstErr]
    split
    · exact h.firstErrLegal
    · exact code_le_seven e
  noDigest := h.noDigest
  estZBound := h.estZBound
  estInfoLegal := h.estInfoLegal
  resultBound := h.resultBound

theorem inv_successCompletion {s : State} (h : s.Inv) : s.successCompletion.Inv where
  precLegal := h.precLegal
  regsCanonical := h.regsCanonical
  regsAddressable := h.regsAddressable
  noErrNoFirst := h.noErrNoFirst
  errFirst := h.errFirst
  lastErrLegal := by simp
  firstErrLegal := h.firstErrLegal
  noDigest := h.noDigest
  estZBound := h.estZBound
  estInfoLegal := h.estInfoLegal
  resultBound := h.resultBound

/-- Raising an addressable entry of a configured estimator keeps the invariant, the canonical form included. -/
theorem inv_raiseReg {s : State} (h : s.Inv) (hp : s.prec ≠ 0) {i : Nat} (hi : i < s.m) (v : Nat) :
    (s.raiseReg i v).Inv where
  precLegal := h.precLegal
  regsCanonical := canonical_set h.regsCanonical (Nat.lt_of_lt_of_le hi (Inv_m_le h)) _
  regsAddressable := fun e he => by
    rcases mem_set he with he | ⟨rfl, -⟩
    · exact h.regsAddressable e he
    · exact ⟨(configured_eq_true s).2 hp, hi⟩
  noErrNoFirst := h.noErrNoFirst
  errFirst := h.errFirst
  lastErrLegal := h.lastErrLegal
  firstErrLegal := h.firstErrLegal
  noDigest := h.noDigest
  estZBound := h.estZBound
  estInfoLegal := h.estInfoLegal
  resultBound := h.resultBound

theorem inv_construct {s : State} (h : s.Inv) {p : Nat} (h4 : 4 ≤ p) (h16 : p ≤ 16) : (s.construct p).Inv where
  precLegal := .inr (by rw [construct_p s h16]; exact ⟨h4, h16⟩)
  regsCanonical := canonical_nil
  regsAddressable := by simp
  noErrNoFirst := h.noErrNoFirst
  errFirst := h.errFirst
  lastErrLegal := h.lastErrLegal
  firstErrLegal := h.firstErrLegal
  noDigest := h.noDigest
  estZBound := h.estZBound
  estInfoLegal := h.estInfoLegal
  resultBound := h.resultBound

/-- A bus access that stores a word, or that is only answered, keeps the invariant. -/
theorem inv_answer {s : State} (h : s.Inv) (rest : List HostEvent) (r : BusResponse) : ((s.await rest).answer r).Inv where
  precLegal := h.precLegal
  regsCanonical := h.regsCanonical
  regsAddressable := h.regsAddressable
  noErrNoFirst := h.noErrNoFirst
  errFirst := h.errFirst
  lastErrLegal := h.lastErrLegal
  firstErrLegal := h.firstErrLegal
  noDigest := h.noDigest
  estZBound := h.estZBound
  estInfoLegal := h.estInfoLegal
  resultBound := h.resultBound

end Sys2Proof.Laws
end

