-- ==== Sys2Proof/Laws/PerInstr.lean ====
section
/-! SUPPORT. Facts made once per command: the encoding of a well-formed command is admitted by the command's
row (R73, R75). -/

namespace Sys2Proof.Laws

/-- An operand placed in its field has no bit under a mask that is 0 over the field. -/
theorem shifted_and_eq_zero {n w : Nat} (k : Nat) {m : Word} (hn : n < 2 ^ w)
    (hm : ∀ j : Fin 64, k ≤ j.val → j.val < k + w → m.getLsbD j.val = false) :
    (BitVec.ofNat 64 n <<< k) &&& m = 0 := by
  refine BitVec.eq_of_getLsbD_eq fun j hj => ?_
  rw [BitVec.getLsbD_and, BitVec.getLsbD_shiftLeft, BitVec.getLsbD_ofNat]
  by_cases h1 : j < k
  · simp [h1]
  · by_cases h2 : j < k + w
    · simp [hm ⟨j, hj⟩ (Nat.le_of_not_lt h1) h2]
    · have : n.testBit (j - k) = false :=
        Nat.testBit_lt_two_pow (Nat.lt_of_lt_of_le hn (Nat.pow_le_pow_right (by norm_num) (by omega)))
      simp [this]

/-- A word made of an opcode and three placed fields is admitted by the opcode's row when the row's mask is 0
over the fields. -/
theorem admits_fields (op : Opcode) {f a b : Nat} (hf : (BitVec.ofNat 64 f <<< 8) &&& op.mask = 0)
    (ha : (BitVec.ofNat 64 a <<< 16) &&& op.mask = 0) (hb : (BitVec.ofNat 64 b <<< 32) &&& op.mask = 0) :
    op.row.admits (op.code ||| (BitVec.ofNat 64 f <<< 8) ||| (BitVec.ofNat 64 a <<< 16) ||| (BitVec.ofNat 64 b <<< 32))
      = true := by
  have hd : ∀ x y : Word, (x ||| y) &&& op.mask = (x &&& op.mask) ||| (y &&& op.mask) := fun x y => by
    refine BitVec.eq_of_getLsbD_eq fun j _ => ?_
    simp only [BitVec.getLsbD_and, BitVec.getLsbD_or, Bool.and_or_distrib_right]
  have hc : op.code &&& op.mask = op.code := by cases op <;> decide
  simp only [Row.admits, Opcode.row, hd, hc, hf, ha, hb, beq_iff_eq]
  simp

/-- An operand that is 0 has no bit. -/
theorem zero_field (k : Nat) (m : Word) : (BitVec.ofNat 64 0 <<< k) &&& m = 0 := by simp

/-! ### Well-formedness of each form with operands -/

theorem wellFormed_hfinal {n : Nat} {add : Bool} : (Instr.hfinal n add).WellFormed ↔ n < 16 := by
  simp [Instr.WellFormed, Instr.wellFormed]
theorem wellFormed_einit {p : Nat} : (Instr.einit p).WellFormed ↔ p < 32 := by
  simp [Instr.WellFormed, Instr.wellFormed]
theorem wellFormed_rmax {i v ps : Nat} : (Instr.rmax i v ps).WellFormed ↔ i < 65536 ∧ v < 65536 ∧ ps < 32 := by
  simp [Instr.WellFormed, Instr.wellFormed, and_assoc]
theorem wellFormed_rread {i : Nat} : (Instr.rread i).WellFormed ↔ i < 65536 := by
  simp [Instr.WellFormed, Instr.wellFormed]
theorem wellFormed_rank {mb : Nat} : (Instr.rank mb).WellFormed ↔ mb < 128 := by
  simp [Instr.WellFormed, Instr.wellFormed]
theorem wellFormed_alpha {p : Nat} : (Instr.alpha p).WellFormed ↔ p < 32 := by
  simp [Instr.WellFormed, Instr.wellFormed]

/-! ### The family `EncodeAdmits` -/

/-- The encoding of a well-formed command is admitted by the command's row (R73, R75). -/
def EncodeAdmits.Statement (i : Instr) : Prop := i.WellFormed → i.opcode.row.admits (encode i) = true

theorem EncodeAdmits.nop : EncodeAdmits.Statement .nop := fun _ => by decide
theorem EncodeAdmits.hinit : EncodeAdmits.Statement .hinit := fun _ => by decide
theorem EncodeAdmits.hblock : EncodeAdmits.Statement .hblock := fun _ => by decide
theorem EncodeAdmits.hfinal (tailn : Nat) (add : Bool) : EncodeAdmits.Statement (.hfinal tailn add) := fun h => by
  have hn := wellFormed_hfinal.1 h
  have hf : tailn + (if add then 16 else 0) < 2 ^ 5 := by split <;> omega
  exact admits_fields .hfinal (shifted_and_eq_zero 8 hf (by decide)) (zero_field 16 _) (zero_field 32 _)
theorem EncodeAdmits.einit (pf : Nat) : EncodeAdmits.Statement (.einit pf) := fun h =>
  admits_fields .einit (shifted_and_eq_zero (w := 5) 8 (wellFormed_einit.1 h) (by decide)) (zero_field 16 _) (zero_field 32 _)
theorem EncodeAdmits.rupd : EncodeAdmits.Statement .rupd := fun _ => by decide
theorem EncodeAdmits.rmax (i v psrc : Nat) : EncodeAdmits.Statement (.rmax i v psrc) := fun h =>
  admits_fields .rmax (shifted_and_eq_zero (w := 5) 8 (wellFormed_rmax.1 h).2.2 (by decide))
    (shifted_and_eq_zero (w := 16) 16 (wellFormed_rmax.1 h).1 (by decide))
    (shifted_and_eq_zero (w := 16) 32 (wellFormed_rmax.1 h).2.1 (by decide))
theorem EncodeAdmits.rread (i : Nat) : EncodeAdmits.Statement (.rread i) := fun h =>
  admits_fields .rread (zero_field 8 _) (shifted_and_eq_zero (w := 16) 16 (wellFormed_rread.1 h) (by decide)) (zero_field 32 _)
theorem EncodeAdmits.card : EncodeAdmits.Statement .card := fun _ => by decide
theorem EncodeAdmits.rank (mb : Nat) : EncodeAdmits.Statement (.rank mb) := fun h =>
  admits_fields .rank (shifted_and_eq_zero (w := 7) 8 (wellFormed_rank.1 h) (by decide)) (zero_field 16 _) (zero_field 32 _)
theorem EncodeAdmits.alpha (pf : Nat) : EncodeAdmits.Statement (.alpha pf) := fun h =>
  admits_fields .alpha (shifted_and_eq_zero (w := 5) 8 (wellFormed_alpha.1 h) (by decide)) (zero_field 16 _) (zero_field 32 _)
theorem EncodeAdmits.clrerr : EncodeAdmits.Statement .clrerr := fun _ => by decide

end Sys2Proof.Laws
end

