-- ==== Sys2Proof/Laws/Run.lean ====
section
/-! SUPPORT. Runs of the machine, and the step on each line of a host program (R79, R80). -/

namespace Sys2Proof.Laws

open Sys2Proof.Machine

theorem runsTo_zero (s : State) : RunsTo 0 s s := rfl

theorem runsTo_succ {n : Nat} {s t u : State} (h : step s = .next t) (h' : RunsTo n t u) : RunsTo (n + 1) s u := by
  have h1 : Sys2Proof.core.step s = .next t := h
  unfold RunsTo at *
  simp only [Host.Core.run, h1]
  exact h'

theorem runsTo_add {n m : Nat} {s t u : State} (h : RunsTo n s t) (h' : RunsTo m t u) : RunsTo (n + m) s u := by
  induction n generalizing s with
  | zero =>
    have : s = t := Host.Outcome.next.inj h
    subst this
    simpa using h'
  | succ n ih =>
    unfold RunsTo at h
    simp only [Host.Core.run] at h
    cases hs : Sys2Proof.core.step s with
    | next s' =>
      rw [hs] at h
      rw [Nat.add_right_comm]
      exact runsTo_succ hs (ih h)
    | fault r => cases r
    | refused r =>
      rw [hs] at h
      cases h

/-- The first answer of a run, and the others. -/
theorem responses_succ {s t : State} (h : step s = .next t) (n : Nat) :
    responses (n + 1) s = t.response :: responses n t := by simp only [responses, h]

/-- The line `WR r, v` (R79). -/
theorem step_wr {s : State} {r : BusReg} {v : Word} {rest : List HostEvent}
    (h : s.pending = wr s.params.base r v :: rest) : step s = writeReg r v ((s.await rest).answer .writeDone) := by
  have hr : admittedOffset s.params.base (s.params.base + r.offset) 8 = some r.offset :=
    admittedOffset_of_aligned _ (by cases r <;> decide) (by cases r <;> decide)
  rw [step_cons h]
  simp only [accept, wr, await_params, Config.busBytes, hr, writeWindow, busRegAt_offset]

/-- The line `RD r` (R79). -/
theorem step_rd {s : State} {r : BusReg} {rest : List HostEvent} (h : s.pending = rd s.params.base r :: rest) :
    step s = .next ((s.await rest).answer (.readData ((s.await rest).readReg r))) := by
  have hr : admittedOffset s.params.base (s.params.base + r.offset) 8 = some r.offset :=
    admittedOffset_of_aligned _ (by cases r <;> decide) (by cases r <;> decide)
  rw [step_cons h]
  simp only [accept, rd, await_params, Config.busBytes, hr, State.readWindow, busRegAt_offset]

/-- A command line, for a command whose encoding decodes to it (R70, R78). -/
theorem step_line {s : State} {i : Instr} {rest : List HostEvent} (hi : decode (encode i) = .ok i)
    (h : s.pending = cmd s.params.base i :: rest) : step s = exec i ((s.await rest).answer .writeDone) := by
  rw [step_wr h]
  simp only [writeReg, runCommand, hi]

end Sys2Proof.Laws
end

