-- ==== Sys2Proof/Tests/Slice0.lean ====
section
/-! SUPPORT. Tests on fixed values, expected results taken from 95_test_vectors.md and 30_encoding.md; and for every
statement with hypotheses a concrete state and operands that meet all of them. -/

namespace Sys2Proof.Tests

open Sys2Proof.Machine

/-- The next state of an outcome. -/
def nextOf : Host.Outcome State Fault Refusal → Option State
  | .next s => some s
  | .fault _ => none
  | .refused _ => none

/-- A field of the state after a command. -/
def after {α : Type} (i : Instr) (s : State) (f : State → α) : Option α := (nextOf (exec i s)).map f

/-- A command word from its fields `RSV`, `B`, `A`, `F`, `OPC` (R72). -/
def wordOf (rsv b a : BitVec 16) (f opc : BitVec 8) : Word := rsv ++ b ++ a ++ f ++ opc

/-- The state after reset with zeros for the free values, so that tests can evaluate it. -/
def blank : State := { State.reset with h1 := 0, h2 := 0 }

/-- An estimator of precision `p` with the given entries that are not 0. -/
def est (p : BitVec 5) (regs : RegFile) : State := { blank with prec := p, regs := regs }

/-- An estimator of precision 4 with every entry `v`. -/
def allOf (v : Entry) : State := est 4 ((List.range 16).map (fun i => (i, v)))

/-- Precision 4 with `REG[9] = 2`, a hash open, and the digest of "hello" (95_test_vectors.md section 2.1). -/
def busy : State :=
  { est 4 [(9, 2)] with
    hopen := true, dvalid := true, digestHi := 0xCBD8A7B341BD9B02, digestLo := 0x5B1E906A48AE1D19, data0 := 0x6F6C6C6568 }

theorem busy_inv : busy.Inv where
  precLegal := by decide
  regsCanonical := by decide
  regsAddressable := by decide
  noErrNoFirst := by decide
  errFirst := by decide
  lastErrLegal := by decide
  firstErrLegal := by decide
  noDigest := by decide
  estZBound := by decide
  estInfoLegal := ⟨0, 0, by decide, by decide, by decide⟩
  resultBound := by decide

/-! ### Well-formedness: each check refuses an operand just outside its field -/

theorem smoke_hfinal_tailn : ¬ (Instr.hfinal 16 false).WellFormed := by decide
theorem smoke_einit_pf : ¬ (Instr.einit 32).WellFormed := by decide
theorem smoke_rmax_index : ¬ (Instr.rmax 65536 0 4).WellFormed := by decide
theorem smoke_rmax_value : ¬ (Instr.rmax 0 65536 4).WellFormed := by decide
theorem smoke_rmax_psrc : ¬ (Instr.rmax 0 0 32).WellFormed := by decide
theorem smoke_rread_index : ¬ (Instr.rread 65536).WellFormed := by decide
theorem smoke_rank_mb : ¬ (Instr.rank 128).WellFormed := by decide
theorem smoke_alpha_pf : ¬ (Instr.alpha 32).WellFormed := by decide

/-! ### Decoding: words written out field by field from R72 to R74 -/

theorem test_decode_nop : decode (wordOf 0 0 0 0x00 0x00) = .ok .nop := by decide
theorem test_decode_hinit : decode (wordOf 0 0 0 0x00 0x01) = .ok .hinit := by decide
theorem test_decode_hblock : decode (wordOf 0 0 0 0x00 0x02) = .ok .hblock := by decide
theorem test_decode_hfinal : decode (wordOf 0 0 0 0b00001011 0x03) = .ok (.hfinal 11 false) := by decide
theorem test_decode_hfinal_add : decode (wordOf 0 0 0 0b00010101 0x03) = .ok (.hfinal 5 true) := by decide
theorem test_decode_einit : decode (wordOf 0 0 0 0b00010000 0x10) = .ok (.einit 16) := by decide
theorem test_decode_rupd : decode (wordOf 0 0 0 0x00 0x11) = .ok .rupd := by decide
theorem test_decode_rmax : decode (wordOf 0 7 3 0b00000101 0x12) = .ok (.rmax 3 7 5) := by decide
theorem test_decode_rread : decode (wordOf 0 0 0x8001 0x00 0x13) = .ok (.rread 0x8001) := by decide
theorem test_decode_card : decode (wordOf 0 0 0 0x00 0x14) = .ok .card := by decide
theorem test_decode_rank : decode (wordOf 0 0 0 0b01111111 0x20) = .ok (.rank 127) := by decide
theorem test_decode_alpha : decode (wordOf 0 0 0 0b00001001 0x21) = .ok (.alpha 9) := by decide
theorem test_decode_clrerr : decode (wordOf 0 0 0 0x00 0x30) = .ok .clrerr := by decide

/-- 95_test_vectors.md section 2.8. -/
theorem test_decode_unassigned : [wordOf 0 0 0 0 0x04, wordOf 0 0 0 0 0x15, wordOf 0 0 0 0 0x22, wordOf 0 0 0 0 0x31,
    wordOf 0 0 0 0 0xFF].map decode = List.replicate 5 (.error .unassignedOpcode) := by decide

/-- 95_test_vectors.md section 2.8, and the bits of R75 just above each field. -/
theorem test_decode_reserved : [wordOf 1 0 0 0 0x01, wordOf 0 0 0 0b00100000 0x03, wordOf 0 0 1 0 0x11,
    wordOf 0 0 0 0b00100000 0x10, wordOf 1 0 0 0 0x12, wordOf 0 1 0 0 0x13, wordOf 0 0 0 0b10000000 0x20].map decode =
    List.replicate 7 (.error .reservedBit) := by decide

/-- 30_encoding.md R81: assembler line and word. -/
theorem test_asm_rmax : (Instr.rmax 3 7 5).asm = "RMAX 3, 7, 5" ∧ encode (.rmax 3 7 5) = 0x0000000700030512 := by
  decide +kernel

/-! ### Commands: vectors of 95_test_vectors.md -/

/-- Section 2.6: `NOP` after an error. -/
theorem test_nop : after .nop (blank.errorCompletion .seq) State.status = some 0x00030001 := by decide

/-- Section 2.1: `HINIT` discards an open hash. -/
theorem test_hinit : after .hinit { blank with hopen := true, hlen := 16, h1 := 5, params := ⟨1, 0, 0⟩ }
    (fun t => (t.hopen, t.hlen, t.h1, t.h2)) = some (true, 0, 1, 1) := by decide

/-- Section 2.1: the fox stream after block 0. -/
theorem test_hblock : after .hblock { blank with hopen := true, data0 := 0x6369757120656854, data1 := 0x206E776F7262206B }
    (fun t => (t.h1, t.h2, t.hlen)) = some (0x065F54070009580C, 0x1185BFE0BC383732, 16) := by decide

/-- Section 2.7, step 1. -/
theorem test_hblock_seq : after .hblock blank State.status = some 0x00030301 := by decide

/-- Section 2.1: `HFINAL 1` masks the bytes above the tail. -/
theorem test_hfinal_mask : after (.hfinal 1 false) { blank with hopen := true, data0 := 0xDEADBEEFCAFE0061 }
    (fun t => (t.digestHi, t.digestLo, t.hlen, t.status)) = some (0x85555565F6597889, 0xE6B53A48510E895A, 1, 4) := by
  decide

/-- Section 2.3: `ADDB ""` at precision 4 writes `REG[0] = 29`. -/
theorem test_hfinal_add : after (.hfinal 0 true) { est 4 [] with hopen := true } (fun t => t.regs) = some [(0, 29)] := by
  decide

/-- Section 2.2: `EINIT 5` over a configured estimator clears its entries. -/
theorem test_einit : after (.einit 5) (est 4 [(9, 2)]) (fun t => (t.status, t.reg 9)) = some (0x05000008, 0) := by decide

/-- Section 2.2: `EINIT 17` is a domain error and leaves `P`. -/
theorem test_einit_domain : after (.einit 17) (est 4 []) State.status = some 0x04070709 := by decide

/-- Section 2.3: the "hello" digest at precision 4. -/
theorem test_rupd : after .rupd { busy with regs := [] } (fun t => (t.regs, t.dvalid)) = some ([(9, 2)], true) := by decide

/-- Section 2.7, step 5. -/
theorem test_rupd_seq : after .rupd (est 5 []) (fun t => t.lastErr) = some 3 := by decide

/-- Section 2.5: a value above `33 - P` is accepted. -/
theorem test_rmax : after (.rmax 31 31 5) (est 5 [(3, 7)]) (fun t => t.regs) = some [(3, 7), (31, 31)] := by decide

/-- Section 2.5: `E_PREC` before `E_INDEX` and `E_VALUE`. -/
theorem test_rmax_priority : after (.rmax 40 50 4) (est 5 []) (fun t => (t.lastErr, t.regs)) = some (4, []) := by decide

/-- Section 2.5. -/
theorem test_rread : after (.rread 3) (est 5 [(3, 7)]) (fun t => t.result) = some 7 := by decide

/-- Section 2.5: `RREAD 32` at precision 5 leaves `RESULT`. -/
theorem test_rread_index : after (.rread 32) { est 5 [] with result := 9 } (fun t => (t.lastErr, t.result)) = some (5, 9) := by
  decide

/-- Section 2.4: region 1. -/
theorem test_card_linear : after .card (est 4 [(4, 2), (9, 2), (10, 2)]) (fun t => (t.result, t.estZ, t.estInfo)) =
    some (0x03527DA7, 59055800320, 0x0100000D) := by decide

/-- Section 2.4: region 2. -/
theorem test_card_large : after .card (allOf 24) (fun t => (t.result, t.estZ, t.estInfo)) =
    some (0xB0042FEBFA88A, 4096, 0x02000000) := by decide

/-- Section 2.3. -/
theorem test_rank : after (.rank 127) blank (fun t => t.result) = some 128 := by decide

/-- Section 2.3: a value of 64 bits does not fit 63. -/
theorem test_rank_domain : after (.rank 63) { blank with data0 := 0xFFFFFFFFFFFFFFFF, result := 9 }
    (fun t => (t.lastErr, t.result)) = some (7, 9) := by decide

/-- Section 1.1. -/
theorem test_alpha : after (.alpha 16) blank (fun t => t.result) = some 0xB8A656AA := by decide

/-- Section 1.1. -/
theorem test_alpha_domain : after (.alpha 3) { blank with result := 9 } (fun t => (t.lastErr, t.result)) = some (7, 9) := by
  decide

/-- Section 2.7, step 6. -/
theorem test_clrerr : after .clrerr ((est 5 []).errorCompletion .seq) State.status = some 0x05000008 := by decide

/-! ### The hash function, the update slice, the bus, the host's rule -/

/-- Section 2.1: 15 bytes, both tail words. -/
theorem test_murmur_tail15 : murmur3 0 ((List.range 15).map (BitVec.ofNat 8)) = (0x47231598FD4925E9, 0xCD846DEE88C67DE9) := by
  decide

/-- Section 2.1: one block and one tail byte, "0123456789abcdefg". -/
theorem test_murmur_block : murmur3 0 [0x30, 0x31, 0x32, 0x33, 0x34, 0x35, 0x36, 0x37, 0x38, 0x39, 0x61, 0x62, 0x63, 0x64,
    0x65, 0x66, 0x67] = (0x8E32612DAA45F9DE, 0x0800F4C206C372EE) := by decide

/-- Section 2.1: the seed, "hello" with seed 1. -/
theorem test_murmur_seed : murmur3 1 [0x68, 0x65, 0x6C, 0x6C, 0x6F] = (0xA78DDFF5ADAE8D10, 0x128900EF20900135) := by decide

/-- Section 2.3: "hello" with `UPD_BIT_OFFSET = 96`. -/
theorem test_slice_offset : updateWord (digestOf 0xCBD8A7B341BD9B02 0x5B1E906A48AE1D19) 96 = 0xCBD8A7B3 := by decide

/-- A host with the given accesses to make. -/
def hostOf (lines : List HostEvent) (s : State) : State := { s with pending := lines }

/-- Program 1 of section 3. -/
theorem test_program_hello : (responses 6 (hostOf
    (hashLines 0 [0x68, 0x65, 0x6C, 0x6C, 0x6F] false ++ [rd 0 .digestHi, rd 0 .digestLo, rd 0 .status]) blank)).drop 3 =
    [.readData 0xCBD8A7B341BD9B02, .readData 0x5B1E906A48AE1D19, .readData 4] := by decide

/-- Section 2.9: narrow and misaligned accesses, a reserved offset, `ID`, and `PARAM` with its second value. -/
theorem test_bus : responses 6 (hostOf [.read 0 4, .read 4 8, rd 0 .cmd, .read 0x70 8, rd 0 .id, rd 0 .param]
    { blank with params := ⟨1, 1, 0⟩ }) =
    [.readError 0, .readError 0, .readData 0, .readData 0, .readData 0x0007000143594C4C, .readData 0x0000000100000001] := by
  decide

/-- Section 2.2: the host rule. -/
theorem test_host_precision : [hostEinit 3 10, hostEinit 26 100, hostEinit 1 5, hostEinit 5 100, hostEinit 5 1000,
    hostEinit 5 10, hostEinit 4 1000] = [some 4, some 4, some 5, some 9, some 16, none, none] := by decide

/-- The first step after reset runs the word placed by `withFetchWord`. -/
theorem test_first_step : (nextOf (step (State.reset.withFetchWord 64 0x1010))).map State.status = some 0x10000008 := by decide

/-! ### Witnesses: the hypotheses of each statement can be met together -/

theorem witness_DecodeOfEncodeIsIdentity : ∀ i ∈ [Instr.nop, .hinit, .hblock, .hfinal 15 true, .hfinal 0 false, .einit 31,
    .rupd, .rmax 65535 65535 31, .rread 65535, .card, .rank 127, .alpha 31, .clrerr], i.WellFormed := by decide

theorem witness_DecodedWordIsItsEncoding : decode 0xFFFFFFFF1F12 = .ok (.rmax 65535 65535 31) := by decide

theorem witness_AtMostOneRowAdmitsWord : Opcode.hfinal.row ∈ opcodeTable ∧ Opcode.hfinal.row.admits 0x1F03 = true := by
  decide

theorem witness_IllegalWordsAreRefusedByName :
    (∀ r ∈ opcodeTable, (0x04 : Word) &&& 0xFF ≠ r.matchWord) ∧
    (Opcode.hfinal.row ∈ opcodeTable ∧ (0x2003 : Word) &&& 0xFF = Opcode.hfinal.row.matchWord ∧
      (0x2003 : Word) &&& Opcode.hfinal.row.mask ≠ Opcode.hfinal.row.matchWord) ∧
    (0x04 ≤ field 0x04 7 0 ∧ field 0x0F 7 0 ≤ 0x0F) ∧ (0x15 ≤ field 0x15 7 0 ∧ field 0x1F 7 0 ≤ 0x1F) ∧
    (0x22 ≤ field 0x22 7 0 ∧ field 0x2F 7 0 ≤ 0x2F) ∧ 0x31 ≤ field 0xFF 7 0 := by decide

/-- A state whose next event is the given one. -/
def facing (e : HostEvent) : State := { blank with pending := [e] }

theorem witness_StepRunsDecodedCommand :
    (facing (.write 0x18 8 0x1010)).pending = .write ((facing (.write 0x18 8 0x1010)).params.base + 0x18) 8 0x1010 :: [] ∧
    decode 0x1010 = .ok (.einit 16) ∧ decode 0x04 = .error .unassignedOpcode := by decide

theorem witness_RefusedAccessHasNoEffect :
    ((255 < 256 ∧ (8 ≠ 8 ∨ 255 % 8 ≠ 0)) ∧
      (facing (.read 255 8)).pending = .read ((facing (.read 255 8)).params.base + 255) 8 :: []) ∧
    ((248 < 256 ∧ (4 ≠ 8 ∨ 248 % 8 ≠ 0)) ∧
      (facing (.write 248 4 1)).pending = .write ((facing (.write 248 4 1)).params.base + 248) 4 1 :: []) := by decide

/-- A block at `BASE = 256` whose next event is the given one. -/
def facingAtPage1 (e : HostEvent) : State := { facing e with params := ⟨0, 0, 1⟩ }

theorem witness_AccessOutsideWindowHasNoEffect :
    255 < (facingAtPage1 (.read 255 8)).params.base ∧ (facingAtPage1 (.read 255 8)).pending = .read 255 8 :: [] ∧
    (facingAtPage1 (.write 512 8 1)).params.base + 256 ≤ 512 ∧
    (facingAtPage1 (.write 512 8 1)).pending = .write 512 8 1 :: [] := by decide

/-- The first and the last register of the map. -/
theorem witness_ReadAnswersRegisterWithoutSideEffect : ∀ off ∈ [0x00, 0x68],
    let s := facing (.read off 8)
    (∃ v, (off, v) ∈ [((0x00 : Nat), (0x0007000143594C4C : Word)), (0x08, s.ctrl), (0x10, s.status), (0x18, 0),
      (0x20, s.data0), (0x28, s.data1), (0x30, s.digestHi), (0x38, s.digestLo), (0x40, s.result), (0x48, s.estZ),
      (0x50, s.estInfo), (0x58, s.hlen), (0x60, s.alphaView), (0x68, s.paramWord)]) ∧
    s.pending = .read (s.params.base + off) 8 :: [] := by
  intro off h
  rcases List.mem_cons.1 h with rfl | h
  · exact ⟨⟨0x0007000143594C4C, by decide⟩, by decide⟩
  · rcases List.mem_cons.1 h with rfl | h
    · exact ⟨⟨0, by decide⟩, by decide⟩
    · cases h

theorem witness_ReservedAndReadOnlyOffsetsIgnoreWrites :
    (0x70 ≤ 0x70 ∧ 0x70 ≤ 0xF8 ∧ 0x70 % 8 = 0 ∧
      (facing (.read 0x70 8)).pending = .read ((facing (.read 0x70 8)).params.base + 0x70) 8 :: []) ∧
    (0x70 ≤ 0xF8 ∧ 0xF8 ≤ 0xF8 ∧ 0xF8 % 8 = 0 ∧
      (facing (.write 0xF8 8 1)).pending = .write ((facing (.write 0xF8 8 1)).params.base + 0xF8) 8 1 :: []) ∧
    (facing (.write 0x68 8 1)).pending = .write ((facing (.write 0x68 8 1)).params.base + 0x68) 8 1 :: [] := by decide

theorem witness_HostWritesOneRegister : ∀ off ∈ [0x08, 0x20, 0x28],
    (facing (.write off 8 3)).pending = .write ((facing (.write off 8 3)).params.base + off) 8 3 :: [] := by decide

theorem witness_WindowIsLittleEndian : 248 % 8 = 0 ∧ 248 < 256 ∧ 7 < 8 ∧ 0 % 8 = 0 ∧ 0 < 8 := by decide

theorem witness_ConstantAndViewRegistersRead :
    blank.prec = 0 ∧ (est 16 []).prec ≠ 0 ∧ alphaRom (est 16 []).p = some 0xB8A656AA := by decide

theorem witness_InterruptIsErrAndEnable : ∃ t, exec .clrerr (busy.errorCompletion .seq) = .next t := ⟨_, rfl⟩

theorem witness_ResetInputRestoresResetState : (facing .reset).pending = .reset :: [] := by decide

/-- For the clause `IllegalWhenReserved` of every command: the lowest and the highest reserved bit, each alone. -/
theorem witness_IllegalWhenReserved : ∀ e ∈ [(Opcode.nop, (0xFFFFFFFFFFFFFF00 : Word), (0x100 : Word)),
    (.hinit, 0xFFFFFFFFFFFFFF00, 0x100), (.hblock, 0xFFFFFFFFFFFFFF00, 0x100), (.hfinal, 0xFFFFFFFFFFFFE000, 0x2000),
    (.einit, 0xFFFFFFFFFFFFE000, 0x2000), (.rupd, 0xFFFFFFFFFFFFFF00, 0x100), (.rmax, 0xFFFF00000000E000, 0x2000),
    (.rread, 0xFFFFFFFF0000FF00, 0x100), (.card, 0xFFFFFFFFFFFFFF00, 0x100), (.rank, 0xFFFFFFFFFFFF8000, 0x8000),
    (.alpha, 0xFFFFFFFFFFFFE000, 0x2000), (.clrerr, 0xFFFFFFFFFFFFFF00, 0x100)],
    ((e.2.2 ||| e.1.code) &&& 0xFF = e.1.code ∧ (e.2.2 ||| e.1.code) &&& e.2.1 ≠ 0) ∧
    ((0x8000000000000000 ||| e.1.code) &&& 0xFF = e.1.code ∧ (0x8000000000000000 ||| e.1.code) &&& e.2.1 ≠ 0) := by decide

theorem witness_ErrorCompletionWritesStatusOnly : blank.err = false ∧ (blank.errorCompletion .seq).err = true := by decide

/-- Each code of `RMAX` as the lowest that applies, the others above it. -/
theorem witness_RmaxReportsLowestCode :
    ((ErrCode.noCfg = .noCfg ∧ blank.prec = 0) ∧
      ∀ f ∈ [ErrCode.noCfg, .prec, .index, .value], ErrCode.noCfg.code.toNat ≤ f.code.toNat) ∧
    (busy.prec ≠ 0 ∧ 5 ≠ busy.p ∧ ∀ f ∈ [ErrCode.prec, .index, .value], ErrCode.prec.code.toNat ≤ f.code.toNat) ∧
    (busy.prec ≠ 0 ∧ 4 = busy.p ∧ 2 ^ busy.p ≤ 16 ∧
      ∀ f ∈ [ErrCode.index, .value], ErrCode.index.code.toNat ≤ f.code.toNat) ∧
    (busy.prec ≠ 0 ∧ 4 = busy.p ∧ 15 < 2 ^ busy.p ∧ 31 < 32) := by decide

theorem witness_HblockCompletes : busy.hopen = true ∧ blank.hopen = false := by decide

theorem witness_HfinalCompletes : (busy.Inv ∧ 15 < 16 ∧ busy.hopen = true ∧ (true = true → busy.prec ≠ 0)) ∧
    (busy.Inv ∧ 0 < 16 ∧ busy.hopen = true ∧ (false = true → busy.prec ≠ 0)) ∧ blank.prec = 0 ∧
    ((true = true → (est 4 []).prec ≠ 0) ∧ (est 4 []).hopen = false) :=
  ⟨⟨busy_inv, by decide, by decide, by decide⟩, ⟨busy_inv, by decide, by decide, by decide⟩, by decide, by decide⟩

theorem witness_HfinalAddIsHfinalThenRupd :
    (busy.prec ≠ 0 ∧ busy.hopen = true ∧ ∃ t, exec (.hfinal 5 false) busy = .next t) ∧ blank.prec = 0 :=
  ⟨⟨by decide, by decide, _, rfl⟩, by decide⟩

theorem witness_GroupWordsPackStreamBytes : 15 < 16 := by decide

theorem witness_TailBytesBeyondLengthAreIgnored : 9 < 16 ∧
    ∀ j, j < 9 → streamByte 0x6867666564636261 0xFF69 j = streamByte 0x6867666564636261 0x0069 j := by decide

theorem witness_HashSequenceComputesMurmur3 :
    ({ busy with pending := hashLines 0 [0x61] false ++ [rd 0 .id] } : State).pending =
      hashLines ({ busy with pending := hashLines 0 [0x61] false ++ [rd 0 .id] } : State).params.base [0x61] false
        ++ [rd 0 .id] := by decide

theorem witness_EinitCompletes : (4 ≤ 4 ∧ 4 ≤ 16) ∧ (4 ≤ 16 ∧ 16 ≤ 16) ∧ (3 < 4 ∨ 16 < 3) ∧ (17 < 4 ∨ 16 < 17) := by decide

theorem witness_AlphaCompletes : (4 ≤ 4 ∧ 4 ≤ 16) ∧ (4 ≤ 16 ∧ 16 ≤ 16) ∧ (3 < 4 ∨ 16 < 3) ∧ (17 < 4 ∨ 16 < 17) := by decide

theorem witness_AlphaRomIsRoundedAlpha : (7 ≤ 7 ∧ 16 ≤ 16) ∧ (3 < 4 ∨ 16 < 3) ∧ (17 < 4 ∨ 16 < 17) := by decide

theorem witness_RankCompletes : (0 < 128 ∧ blank.data0.toNat < 2 ^ 0) ∧ (127 < 128 ∧ busy.data0.toNat < 2 ^ 127) ∧
    (0 < 128 ∧ 2 ^ 0 ≤ busy.data0.toNat) := by decide

theorem witness_RankEqualsLeadingZeroCounter : 0 < 2 ^ 0 ∧ 2 ^ 0 ≤ 1 ∧ 2 ^ 31 < 2 ^ 32 ∧ 2 ^ 32 ≤ 2 ^ 32 := by decide

theorem witness_UpdateSliceIsInRange : (4 ≤ 4 ∧ 4 ≤ 16) ∧ (4 ≤ 16 ∧ 16 ≤ 16) := by decide

theorem witness_RupdCompletes : (busy.Inv ∧ busy.prec ≠ 0 ∧ busy.dvalid = true) ∧ blank.prec = 0 ∧
    ((est 4 []).prec ≠ 0 ∧ (est 4 []).dvalid = false) :=
  ⟨⟨busy_inv, by decide, by decide⟩, by decide, by decide⟩

theorem witness_RegisterUpdatesAreIdempotentAndCommute : busy.Inv ∧ busy.prec ≠ 0 := ⟨busy_inv, by decide⟩

theorem witness_RmaxCompletes : (busy.Inv ∧ busy.prec ≠ 0 ∧ 15 < 2 ^ busy.p ∧ 31 ≤ 31) ∧ blank.prec = 0 ∧
    (busy.prec ≠ 0 ∧ 5 ≠ busy.p) ∧ (4 = busy.p ∧ 2 ^ busy.p ≤ 16) ∧ (4 = busy.p ∧ 15 < 2 ^ busy.p ∧ 31 < 32) :=
  ⟨⟨busy_inv, by decide, by decide, by decide⟩, by decide, by decide, by decide, by decide⟩

theorem witness_RreadCompletes : (busy.prec ≠ 0 ∧ 15 < 2 ^ busy.p) ∧ blank.prec = 0 ∧ (busy.prec ≠ 0 ∧ 2 ^ busy.p ≤ 16) := by
  decide

/-- Sixteen entries, the largest 31. -/
def sixteen : List Nat := 31 :: List.replicate 15 1

theorem witness_MergeSequenceIsRegisterwiseMaximum :
    ({ busy with pending := mergeLines 0 4 sixteen ++ [] } : State).Inv ∧ busy.prec ≠ 0 ∧ sixteen.length = 2 ^ busy.p ∧
    (∀ v ∈ sixteen, v ≤ 31) ∧
    ({ busy with pending := mergeLines 0 4 sixteen ++ [] } : State).pending = mergeLines busy.params.base busy.p sixteen ++ [] :=
  ⟨⟨busy_inv.1, busy_inv.2, busy_inv.3, busy_inv.4, busy_inv.5, busy_inv.6, busy_inv.7, busy_inv.8, busy_inv.9, busy_inv.10,
    busy_inv.11⟩, by decide, by decide, by decide, by decide⟩

theorem witness_MergeOfOtherPrecisionChangesNoEntry :
    busy.prec ≠ 0 ∧ 31 ≠ busy.p ∧ 31 < 32 ∧ [65535] ≠ [] ∧ [65535].length ≤ 65536 ∧ (∀ v ∈ [65535], v < 65536) ∧
    ({ busy with pending := mergeLines 0 31 [65535] ++ [] } : State).pending = mergeLines busy.params.base 31 [65535] ++ [] := by
  decide

theorem witness_RestoreOfSnapshotIsEqual : busy.Inv ∧ busy.prec ≠ 0 ∧
    ({ blank with pending := restoreLines 0 4 (busy.snapshot.registers.map BitVec.toNat) ++ [] } : State).pending =
      restoreLines blank.params.base busy.p (busy.snapshot.registers.map BitVec.toNat) ++ [] :=
  ⟨busy_inv, by decide, by decide⟩

theorem witness_SnapshotReadsEveryEntry : busy.prec ≠ 0 ∧ busy.p ≤ 16 ∧
    ({ busy with pending := snapshotLines 0 16 ++ [] } : State).pending = snapshotLines busy.params.base busy.m ++ [] := by
  decide

/-- One state for each clause of `CARD`: all entries 0, 1, 2, 24, 29 at precision 4, and no estimator; with the values of
95_test_vectors.md section 2.4 for `Zi`, `V` and `N = 0xAC49BA5E * 2^8`. -/
theorem witness_CardCompletes : blank.prec = 0 ∧ (∀ s ∈ [allOf 0, allOf 1, allOf 2, allOf 24, allOf 29], s.prec ≠ 0) ∧
    (2 * (0xAC49BA5E * 2 ^ 8) ≤ 5 * 16 * (allOf 0).harmonicSum ∧ 0 < (allOf 0).zeroCount) ∧
    (2 * (0xAC49BA5E * 2 ^ 8) ≤ 5 * 16 * (allOf 1).harmonicSum ∧ (allOf 1).zeroCount = 0) ∧
    (5 * 16 * (allOf 2).harmonicSum < 2 * (0xAC49BA5E * 2 ^ 8) ∧
      30 * (0xAC49BA5E * 2 ^ 8) ≤ 2 ^ 32 * (allOf 2).harmonicSum) ∧
    (2 ^ 32 * (allOf 24).harmonicSum < 30 * (0xAC49BA5E * 2 ^ 8) ∧
      0xAC49BA5E * 2 ^ 8 < 2 ^ 32 * (allOf 24).harmonicSum) ∧
    2 ^ 32 * (allOf 29).harmonicSum ≤ 0xAC49BA5E * 2 ^ 8 := by decide

theorem witness_EstimateIsExactTruncation : 0 < 4096 ∧ 0 < 16 ∧ (0 < 16 ∧ 16 ≤ 16) ∧ 739943046144 < 2 ^ 32 * 4096 := by decide

theorem witness_RegionSelectionMatchesRealThresholds : 0 < 1 := by decide

theorem witness_HarmonicSumIsExactAndBounded : (4 ≤ (est 4 []).p ∧ (est 4 []).p ≤ 16) ∧ (4 ≤ (est 16 []).p ∧ (est 16 []).p ≤ 16) := by
  decide

theorem witness_EstimateFitsResult : ∀ e ∈ [(allOf 0, Region.linear), (allOf 1, .raw), (allOf 28, .large)],
    4 ≤ e.1.p ∧ e.1.p ≤ 16 ∧
    selectRegion e.1.scaledNumerator e.1.harmonicSum e.1.zeroCount e.1.m = some e.2 := by decide

theorem witness_CardDependsOnEntriesOnly : busy.prec ≠ 0 ∧ busy.prec = (est 4 [(9, 2), (16, 5)]).prec ∧
    ∀ i, i < 2 ^ busy.p → busy.reg i = (est 4 [(9, 2), (16, 5)]).reg i := by decide

theorem witness_StepKeepsInvariant : busy.Inv ∧ ∃ t, step busy = .next t := ⟨busy_inv, _, rfl⟩

theorem witness_EntriesAreMonotonic : busy.Inv ∧
    ((∃ t, exec (.rmax 9 5 4) busy = .next t) ∧ (∀ p, Instr.rmax 9 5 4 ≠ .einit p) ∧ busy.prec ≠ 0) ∧
    ((∃ t, exec .clrerr busy = .next t) ∧ (∀ p, Instr.clrerr ≠ .einit p) ∧ Instr.clrerr ≠ .rupd ∧
      (∀ r, Instr.clrerr ≠ .hfinal r true) ∧ ∀ a b c, Instr.clrerr ≠ .rmax a b c) :=
  ⟨busy_inv, ⟨⟨_, rfl⟩, nofun, by decide⟩,
    ⟨_, rfl⟩, nofun, by decide, nofun, nofun⟩

theorem witness_PrecisionChangesOnlyAtEinitOrReset :
    (nextOf (step (facing (.write 0x18 8 0x1010)))).map (fun t => t.prec != (facing (.write 0x18 8 0x1010)).prec) =
      some true := by decide

theorem witness_CommandsLeaveOperandAndDigestRegisters : (∃ t, exec .rupd busy = .next t) ∧
    (∀ r add, Instr.rupd ≠ .hfinal r add) ∧ busy.hopen = true :=
  ⟨⟨_, rfl⟩, nofun, by decide⟩

theorem witness_ResultRegistersHaveTheirWriters : (∃ t, exec .rupd busy = .next t) ∧ Instr.rupd ≠ .card ∧
    (∀ j, Instr.rupd ≠ .rread j) ∧ (∀ mb, Instr.rupd ≠ .rank mb) ∧ (∀ p, Instr.rupd ≠ .alpha p) ∧ Instr.rupd ≠ .hinit ∧
    Instr.rupd ≠ .hblock ∧ ∀ r add, Instr.rupd ≠ .hfinal r add :=
  ⟨⟨_, rfl⟩, by decide, nofun, nofun, nofun, by decide, by decide,
    nofun⟩

/-- Two states that differ in what cannot be observed: the accumulators of a block with no hash open. -/
theorem witness_UnspecifiedStateIsUnobservable :
    ({ busy with hopen := false } : State).Inv ∧ ({ busy with hopen := false, h1 := 1, draws := 5 } : State).Inv ∧
    SameObservable { busy with hopen := false } { busy with hopen := false, h1 := 1, draws := 5 } :=
  ⟨⟨busy_inv.1, busy_inv.2, busy_inv.3, busy_inv.4, busy_inv.5, busy_inv.6, busy_inv.7, busy_inv.8, busy_inv.9, busy_inv.10,
      busy_inv.11⟩,
    ⟨busy_inv.1, busy_inv.2, busy_inv.3, busy_inv.4, busy_inv.5, busy_inv.6, busy_inv.7, busy_inv.8, busy_inv.9, busy_inv.10,
      busy_inv.11⟩,
    ⟨rfl, rfl, rfl, rfl, rfl, rfl, rfl, rfl, rfl, rfl, rfl, rfl, rfl, rfl, rfl, rfl, rfl, rfl, by decide,
      fun _ _ _ => rfl⟩⟩

theorem witness_HostPrecisionIsLeast : (0 < 1 ∧ 1 < 1000) ∧ (0 < 26 ∧ 26 < 100) := by decide

end Sys2Proof.Tests
end

/-! ## Proofs: what a command can do

`exec` said once as a relation: a command either fails with one of its codes, or makes the writes of its `Effect`
and completes with success. -/

namespace Sys2Proof.Proofs

open Sys2Proof.Machine Sys2Proof.Laws

/-- `Effect i s u`: every check of the command `i` passes in `s`, and its writes lead to `u` (before the success
completion). -/
inductive Effect : Instr → State → State → Prop where
  | nop (s : State) : Effect .nop s s
  | hinit (s : State) :
      Effect .hinit s (s.setHash (seedWord s.params.hashSeed) (seedWord s.params.hashSeed) 0).openHash
  | hblock {s : State} (opened : s.hopen = true) : Effect .hblock s
      (s.setHash (blockStep s.h1 s.h2 s.data0 s.data1).1 (blockStep s.h1 s.h2 s.data0 s.data1).2 (s.hlen + 16))
  | hfinal {s : State} (r : Nat) (opened : s.hopen = true) : Effect (.hfinal r false) s (s.finalised r)
  | hfinalAdd {s : State} (r : Nat) (configured : s.prec ≠ 0) (opened : s.hopen = true) : Effect (.hfinal r true) s
      ((s.finalised r).registerUpdate (digestOf (s.finishedDigest r).1 (s.finishedDigest r).2))
  | einit (s : State) {p : Nat} (lower : 4 ≤ p) (upper : p ≤ 16) : Effect (.einit p) s (s.construct p)
  | rupd {s : State} (configured : s.prec ≠ 0) (valid : s.dvalid = true) :
      Effect .rupd s (s.registerUpdate (digestOf s.digestHi s.digestLo))
  | rmax {s : State} {i v : Nat} (configured : s.prec ≠ 0) (index : i < 2 ^ s.p) (value : v ≤ 31) :
      Effect (.rmax i v s.p) s (s.raiseReg i v)
  | rread {s : State} {i : Nat} (configured : s.prec ≠ 0) (index : i < 2 ^ s.p) :
      Effect (.rread i) s (s.setResult ((s.reg i).setWidth 64))
  | card {s : State} {r : Region} (configured : s.prec ≠ 0)
      (selected : selectRegion s.scaledNumerator s.harmonicSum s.zeroCount s.m = some r) :
      Effect .card s (s.setEstimate
        (BitVec.ofNat 64 (estimate r s.scaledNumerator s.harmonicSum s.zeroCount s.m))
        (BitVec.ofNat 64 s.harmonicSum) (infoWord s.zeroCount r))
  | rank {s : State} {mb : Nat} (fits : s.data0.toNat < 2 ^ mb) :
      Effect (.rank mb) s (s.setResult (BitVec.ofNat 64 (mb - bitlen s.data0.toNat + 1)))
  | alpha (s : State) {p : Nat} {a : BitVec 32} (entry : alphaRom p = some a) :
      Effect (.alpha p) s (s.setResult (a.setWidth 64))
  | clrerr (s : State) : Effect .clrerr s s.clearErrors

/-- The two ways a command ends (R220): an error completion with one of its codes (R222), or its effect and the
success completion. -/
def Ends (i : Instr) (s : State) : Prop :=
  (∃ e ∈ possibleErrors i, exec i s = .next (s.errorCompletion e)) ∨
  (∃ u, Effect i s u ∧ exec i s = .next u.successCompletion)

theorem ends_of_error {i : Instr} {s : State} (e : ErrCode) (he : e ∈ possibleErrors i)
    (h : exec i s = .next (s.errorCompletion e)) : Ends i s := .inl ⟨e, he, h⟩

theorem ends_of_effect {i : Instr} {s u : State} (hu : Effect i s u) (h : exec i s = .next u.successCompletion) :
    Ends i s := .inr ⟨u, hu, h⟩

theorem ends_hfinal (r : Nat) (add : Bool) (s : State) : Ends (.hfinal r add) s := by
  rcases execHfinal_cases r add s with ⟨rfl, -, h⟩ | ⟨-, -, h⟩ | ⟨rfl, hp, ho, h⟩ | ⟨rfl, ho, h⟩
  · exact ends_of_error .noCfg (by simp [possibleErrors]) h
  · exact ends_of_error .seq (by cases add <;> simp [possibleErrors]) h
  · exact ends_of_effect (.hfinalAdd r hp ho) h
  · exact ends_of_effect (.hfinal r ho) h

theorem ends_rmax (i v ps : Nat) (s : State) : Ends (.rmax i v ps) s := by
  rcases execRmax_cases i v ps s with
    ⟨-, h⟩ | ⟨-, -, h⟩ | ⟨-, -, -, h⟩ | ⟨-, -, -, -, h⟩ | ⟨hp, rfl, hi, hv, h⟩
  · exact ends_of_error .noCfg (by simp [possibleErrors]) h
  · exact ends_of_error .prec (by simp [possibleErrors]) h
  · exact ends_of_error .index (by simp [possibleErrors]) h
  · exact ends_of_error .value (by simp [possibleErrors]) h
  · exact ends_of_effect (.rmax hp hi hv) h

/-- Every command ends in one of the two ways, from every state. -/
theorem exec_ends (i : Instr) (s : State) : Ends i s := by
  cases i with
  | nop => exact ends_of_effect (.nop s) rfl
  | hinit => exact ends_of_effect (.hinit s) rfl
  | hblock =>
    rcases execHblock_cases s with ⟨-, h⟩ | ⟨ho, h⟩
    · exact ends_of_error .seq (by decide) h
    · exact ends_of_effect (.hblock ho) h
  | hfinal r add => exact ends_hfinal r add s
  | einit p =>
    rcases execEinit_cases p s with ⟨-, h⟩ | ⟨h4, h16, h⟩
    · exact ends_of_error .domain (by simp [possibleErrors]) h
    · exact ends_of_effect (.einit s h4 h16) h
  | rupd =>
    rcases execRupd_cases s with ⟨-, h⟩ | ⟨-, -, h⟩ | ⟨hp, hd, h⟩
    · exact ends_of_error .noCfg (by decide) h
    · exact ends_of_error .seq (by decide) h
    · exact ends_of_effect (.rupd hp hd) h
  | rmax i v ps => exact ends_rmax i v ps s
  | rread i =>
    rcases execRread_cases i s with ⟨-, h⟩ | ⟨-, -, h⟩ | ⟨hp, hi, h⟩
    · exact ends_of_error .noCfg (by simp [possibleErrors]) h
    · exact ends_of_error .index (by simp [possibleErrors]) h
    · exact ends_of_effect (.rread hp hi) h
  | card =>
    rcases execCard_cases s with ⟨-, h⟩ | ⟨-, -, h⟩ | ⟨r, hp, hr, h⟩
    · exact ends_of_error .noCfg (by decide) h
    · exact ends_of_error .domain (by decide) h
    · exact ends_of_effect (.card hp hr) h
  | rank mb =>
    rcases execRank_cases mb s with ⟨-, h⟩ | ⟨hf, h⟩
    · exact ends_of_error .domain (by simp [possibleErrors]) h
    · exact ends_of_effect (.rank hf) h
  | alpha p =>
    rcases execAlpha_cases p s with ⟨-, h⟩ | ⟨a, ha, h⟩
    · exact ends_of_error .domain (by simp [possibleErrors]) h
    · exact ends_of_effect (.alpha s ha) h
  | clrerr => exact ends_of_effect (.clrerr s) rfl

/-- What the next state of a command is: the inversion of `exec`. -/
theorem exec_cases {i : Instr} {s t : State} (h : exec i s = .next t) :
    (∃ e ∈ possibleErrors i, t = s.errorCompletion e) ∨ (∃ u, Effect i s u ∧ t = u.successCompletion) := by
  rcases exec_ends i s with ⟨e, he, hx⟩ | ⟨u, hu, hx⟩
  · exact .inl ⟨e, he, Host.Outcome.next.inj (h.symm.trans hx)⟩
  · exact .inr ⟨u, hu, Host.Outcome.next.inj (h.symm.trans hx)⟩

/-- What the next state of a write to `CMD` is: of the decoded command, or the error completion `E_ILLEGAL`. -/
theorem runCommand_cases {c : Word} {s t : State} (h : runCommand c s = .next t) :
    (∃ i, decode c = .ok i ∧ exec i s = .next t) ∨ t = s.errorCompletion .illegal := by
  unfold runCommand at h
  split at h
  · exact .inl ⟨_, by assumption, h⟩
  · exact .inr (Host.Outcome.next.inj h).symm

/-! ### The frame of a command -/

/-- Settles O56: an error completion writes the error status only, and no effect but that of `HFINAL` writes
anything the statement names. -/
theorem commandsLeaveOperandAndDigestRegisters : Obligations.CommandsLeaveOperandAndDigestRegisters := by
  intro i s t h
  rcases exec_cases h with ⟨e, -, rfl⟩ | ⟨u, hu, rfl⟩
  · simp
  · cases hu with
    | hfinal r | hfinalAdd r => simp
    | nop | hinit | hblock | einit | rupd | rmax | rread | card | rank | alpha | clrerr => simp

/-- Settles O57: the effects that write a result register or the accumulators are those of its own commands. -/
theorem resultRegistersHaveTheirWriters : Obligations.ResultRegistersHaveTheirWriters := by
  intro i s t h
  rcases exec_cases h with ⟨e, -, rfl⟩ | ⟨u, hu, rfl⟩
  · simp
  · cases hu with
    | hinit | hblock | hfinal | hfinalAdd => simp
    | rread | rank | alpha | card => simp
    | nop | einit | rupd | rmax | clrerr => simp

/-- A command that changes `P` is an `EINIT` of the new precision (R37). -/
theorem exec_prec {i : Instr} {s t : State} (h : exec i s = .next t) (hp : t.prec ≠ s.prec) : i = .einit t.p := by
  rcases exec_cases h with ⟨e, -, rfl⟩ | ⟨u, hu, rfl⟩
  · exact absurd rfl hp
  · cases hu with
    | einit s lower upper => rw [successCompletion_p, construct_p s upper]
    | nop | hinit | hblock | hfinal | hfinalAdd | rupd | rmax | rread | card | rank | alpha | clrerr => simp at hp

/-- Settles O55: of the cases of a step only the reset and a command can change `P`, and of the commands only
`EINIT`. -/
theorem precisionChangesOnlyAtEinitOrReset : Obligations.PrecisionChangesOnlyAtEinitOrReset := by
  intro s t h hp
  rcases step_cases h with ⟨-, rfl⟩ | ⟨rest, r, rfl⟩ | ⟨rest, v, rfl⟩ | ⟨rest, v, rfl⟩ | ⟨rest, v, rfl⟩ |
    ⟨rest, c, hpend, hrun⟩ | ⟨rest, hpend, -⟩
  · exact absurd rfl hp
  · exact absurd rfl hp
  · exact absurd rfl hp
  · exact absurd rfl hp
  · exact absurd rfl hp
  · rcases runCommand_cases hrun with ⟨i, hdec, hexec⟩ | rfl
    · rw [exec_prec hexec hp] at hdec
      exact .inr ⟨c, rest, t.p, hpend, hdec, rfl⟩
    · exact absurd rfl hp
  · exact .inl ⟨rest, hpend⟩

end Sys2Proof.Proofs

/-! ## Proofs: the invariant of the reachable states (R40) -/

namespace Sys2Proof.Proofs

open Sys2Proof.Machine Sys2Proof.Laws

/-! ### The estimate fits `RESULT` (R175) -/

/-- The truncated logarithm of a ratio up to `2^q` is at most `k q ln 2`, here with `ln 2 < 7/10`. -/
theorem floorLog_le {k a b q : Nat} (hb : 0 < b) (hab : b ≤ a) (hq : a ≤ 2 ^ q * b) :
    10 * floorLog k a b ≤ 7 * (k * q) := by
  have hb' : (0 : ℝ) < b := by exact_mod_cast hb
  have ha' : (0 : ℝ) < a := by exact_mod_cast hb.trans_le hab
  have hratio : (a : ℝ) / b ≤ 2 ^ q := by
    rw [div_le_iff₀ hb']
    exact_mod_cast hq
  have hlog : Real.log (a / b) ≤ q * (7 / 10) := by
    calc Real.log (a / b) ≤ Real.log (2 ^ q) := Real.log_le_log (by positivity) hratio
      _ = q * Real.log 2 := Real.log_pow _ _
      _ ≤ q * (7 / 10) := by
        have := Real.log_two_lt_d9
        gcongr
        linarith
  have hlog0 : 0 ≤ Real.log (a / b) :=
    Real.log_nonneg (by rw [le_div_iff₀ hb', one_mul]; exact_mod_cast hab)
  have hfloor : (floorLog k a b : ℝ) ≤ k * (q * (7 / 10)) := by
    rw [floorLog_eq k hb hab]
    exact (Nat.floor_le (by positivity)).trans (by gcongr)
  have : (10 * floorLog k a b : ℝ) ≤ 7 * (k * q) := by linarith
  exact_mod_cast this

theorem estimate_linear_lt {v m : Nat} (n zi : Nat) (hv : 0 < v) (hvm : v ≤ m) (hm : m ≤ 65536) :
    estimate .linear n zi v m < 2 ^ 62 := by
  have h : 10 * floorLog (2 ^ 24 * m) m v ≤ 7 * (2 ^ 24 * m * 16) := floorLog_le hv hvm (by omega)
  show floorLog (2 ^ 24 * m) m v < 2 ^ 62
  omega

theorem estimate_large_lt {n zi : Nat} (v m : Nat) (hn : n < 2 ^ 32 * zi) (hz : zi < 2 ^ 49) :
    estimate .large n zi v m < 2 ^ 62 := by
  have h : 10 * floorLog (2 ^ 24 * 2 ^ 32) (2 ^ 32 * zi) (2 ^ 32 * zi - n) ≤ 7 * (2 ^ 24 * 2 ^ 32 * 81) :=
    floorLog_le (by omega) (by omega) (by omega)
  show floorLog (2 ^ 24 * 2 ^ 32) (2 ^ 32 * zi) (2 ^ 32 * zi - n) < 2 ^ 62
  omega

/-- Where the raw estimate is selected, `N / Zi` is below `2^38`. -/
theorem estimate_raw_lt {n zi : Nat} (v m : Nat) (hz : 0 < zi) (hn : n < 2 ^ 38 * zi) :
    estimate .raw n zi v m < 2 ^ 62 := by
  show n * 2 ^ 24 / zi < 2 ^ 62
  rw [Nat.div_lt_iff_lt_mul hz]
  omega

/-- What the selection of a region says of its operands (R173). -/
theorem selectRegion_cases {n zi v m : Nat} {r : Region} (h : selectRegion n zi v m = some r) :
    (r = .linear ∧ 0 < v) ∨ (r = .raw ∧ (2 * n ≤ 5 * m * zi ∨ 30 * n ≤ 2 ^ 32 * zi)) ∨
    (r = .large ∧ n < 2 ^ 32 * zi) := by
  unfold selectRegion at h
  split at h
  · rename_i hsmall
    split at h
    · rename_i hv
      exact .inl ⟨(Option.some.inj h).symm, hv⟩
    · exact .inr (.inl ⟨(Option.some.inj h).symm, .inl hsmall⟩)
  · split at h
    · rename_i hmid
      exact .inr (.inl ⟨(Option.some.inj h).symm, .inr hmid⟩)
    · split at h
      · cases h
      · rename_i hlarge
        exact .inr (.inr ⟨(Option.some.inj h).symm, Nat.lt_of_not_le hlarge⟩)

theorem harmonicSum_lt {s : State} (hp : s.p ≤ 16) : s.harmonicSum < 2 ^ 49 := by
  have hz := (harmonicSum_bounds s).2
  have hm := m_le_of_p hp
  omega

/-- The estimate of the selected region is below `2^62` (R175). -/
theorem estimate_lt {s : State} {r : Region} (hp : s.p ≤ 16)
    (h : selectRegion s.scaledNumerator s.harmonicSum s.zeroCount s.m = some r) :
    estimate r s.scaledNumerator s.harmonicSum s.zeroCount s.m < 2 ^ 62 := by
  have hm := m_le_of_p hp
  have hz := harmonicSum_pos s
  rcases selectRegion_cases h with ⟨rfl, hv⟩ | ⟨rfl, hn⟩ | ⟨rfl, hn⟩
  · exact estimate_linear_lt _ _ hv (zeroCount_le s) hm
  · refine estimate_raw_lt _ _ hz ?_
    rcases hn with hn | hn
    · have : 5 * s.m * s.harmonicSum ≤ 5 * 65536 * s.harmonicSum := by gcongr
      omega
    · omega
  · exact estimate_large_lt _ _ hn (harmonicSum_lt hp)

/-! ### The words of `EST_INFO` and `RESULT` -/

theorem region_code_le (r : Region) : r.code ≤ 2 := by cases r <;> decide

/-- The fields of `EST_INFO` do not overlap (R30). -/
theorem infoWord_eq {v : Nat} (hv : v ≤ 65536) (r : Region) : infoWord v r = BitVec.ofNat 64 (v + r.code * 2 ^ 24) := by
  have hr := region_code_le r
  have hor : r.code * 2 ^ 24 ||| v = r.code * 2 ^ 24 + v := by
    rw [Nat.mul_comm]
    exact (Nat.two_pow_add_eq_or_of_lt (by omega) _).symm
  refine BitVec.eq_of_toNat_eq ?_
  simp only [infoWord, BitVec.toNat_or, BitVec.toNat_shiftLeft, BitVec.toNat_ofNat, Nat.shiftLeft_eq]
  rw [Nat.mod_eq_of_lt (a := v) (by omega), Nat.mod_eq_of_lt (a := r.code) (by omega),
    Nat.mod_eq_of_lt (a := r.code * 2 ^ 24) (by omega), Nat.mod_eq_of_lt (by omega), Nat.or_comm, hor, Nat.add_comm]

theorem toNat_setWidth_lt {n : Nat} (x : BitVec n) (hn : n ≤ 62) : (x.setWidth 64).toNat < 2 ^ 62 := by
  rw [BitVec.toNat_setWidth]
  exact (Nat.mod_le _ _).trans_lt (x.isLt.trans_le (Nat.pow_le_pow_right (by norm_num) hn))

/-! ### Each write keeps the invariant -/

theorem inv_setResult {s : State} (h : s.Inv) {v : Word} (hv : v.toNat < 2 ^ 62) : (s.setResult v).Inv :=
  { h with resultBound := hv }

theorem inv_setHash {s : State} (h : s.Inv) (a b len : Word) : (s.setHash a b len).Inv := { h with }

theorem inv_openHash {s : State} (h : s.Inv) : s.openHash.Inv := { h with }

theorem inv_clearErrors {s : State} (h : s.Inv) (hl : s.lastErr = 0) : s.clearErrors.Inv :=
  { h with
    noErrNoFirst := fun _ => rfl
    errFirst := nofun
    lastErrLegal := ⟨h.lastErrLegal.1, fun h0 => absurd hl h0⟩
    firstErrLegal := by simp }

/-- `HFINAL` writes the digest only together with `DVALID` (R27). -/
theorem inv_finalised {s : State} (h : s.Inv) (r : Nat) : (s.finalised r).Inv where
  precLegal := by simpa using h.precLegal
  regsCanonical := by simpa using h.regsCanonical
  regsAddressable := by simpa using h.regsAddressable
  noErrNoFirst := by simpa using h.noErrNoFirst
  errFirst := by simpa using h.errFirst
  lastErrLegal := by simpa using h.lastErrLegal
  firstErrLegal := by simpa using h.firstErrLegal
  noDigest := by simp
  estZBound := by simpa using h.estZBound
  estInfoLegal := by simpa using h.estInfoLegal
  resultBound := by simpa using h.resultBound

theorem inv_registerUpdate {s : State} (h : s.Inv) (hp : s.prec ≠ 0) (d : BitVec 128) : (s.registerUpdate d).Inv := by
  rw [registerUpdate_eq]
  exact inv_raiseReg h hp (updateIndex_lt _ _) _

theorem inv_setEstimate {s : State} (h : s.Inv) (hp : s.prec ≠ 0) {r : Region}
    (hr : selectRegion s.scaledNumerator s.harmonicSum s.zeroCount s.m = some r) :
    (s.setEstimate (BitVec.ofNat 64 (estimate r s.scaledNumerator s.harmonicSum s.zeroCount s.m))
      (BitVec.ofNat 64 s.harmonicSum) (infoWord s.zeroCount r)).Inv := by
  have h16 := (Inv_prec_range h hp).2
  have hv := (zeroCount_le s).trans (m_le_of_p h16)
  have hz := harmonicSum_lt h16
  have he := estimate_lt h16 hr
  exact { h with
    estZBound := by simpa using (Nat.mod_le _ _).trans_lt hz
    estInfoLegal := ⟨s.zeroCount, r.code, hv, region_code_le r, infoWord_eq hv r⟩
    resultBound := by simpa using (Nat.mod_le _ _).trans_lt he }

/-! ### Every command and every step keeps the invariant -/

theorem field_lt (c : Word) (hi lo : Nat) : field c hi lo < 2 ^ (hi + 1 - lo) := Nat.mod_lt _ (by positivity)

/-- A decoded command is well formed: its operands are fields of the word (R73). -/
theorem wellFormed_of_decode {c : Word} {i : Instr} (h : decode c = .ok i) : i.WellFormed := by
  obtain ⟨op, -, rfl⟩ := admits_of_decode h
  cases op with
  | nop | hinit | hblock | rupd | card | clrerr => rfl
  | hfinal => exact wellFormed_hfinal.2 (field_lt c 11 8)
  | einit => exact wellFormed_einit.2 (field_lt c 12 8)
  | rmax => exact wellFormed_rmax.2 ⟨field_lt c 31 16, field_lt c 47 32, field_lt c 12 8⟩
  | rread => exact wellFormed_rread.2 (field_lt c 31 16)
  | rank => exact wellFormed_rank.2 (field_lt c 14 8)
  | alpha => exact wellFormed_alpha.2 (field_lt c 12 8)

/-- The effect of a well-formed command, completed, keeps the invariant. Well-formedness bounds the rank of `RANK`; the
completion is part of the statement because `CLRERR` clears `ERR` before it clears `LASTERR`. -/
theorem inv_effect {i : Instr} {s u : State} (h : s.Inv) (hw : i.WellFormed) (hu : Effect i s u) :
    u.successCompletion.Inv := by
  cases hu with
  | nop => exact inv_successCompletion h
  | hinit => exact inv_successCompletion (inv_openHash (inv_setHash h _ _ _))
  | hblock => exact inv_successCompletion (inv_setHash h _ _ _)
  | hfinal r => exact inv_successCompletion (inv_finalised h r)
  | hfinalAdd r hp =>
    exact inv_successCompletion (inv_registerUpdate (inv_finalised h r) (by simpa using hp) _)
  | einit _ h4 h16 => exact inv_successCompletion (inv_construct h h4 h16)
  | rupd hp => exact inv_successCompletion (inv_registerUpdate h hp _)
  | rmax hp hi => exact inv_successCompletion (inv_raiseReg h hp hi _)
  | rread => exact inv_successCompletion (inv_setResult h (toNat_setWidth_lt _ (by norm_num)))
  | card hp hr => exact inv_successCompletion (inv_setEstimate h hp hr)
  | @rank _ mb =>
    have hmb := wellFormed_rank.1 hw
    refine inv_successCompletion (inv_setResult h ?_)
    rw [BitVec.toNat_ofNat]
    omega
  | alpha => exact inv_successCompletion (inv_setResult h (toNat_setWidth_lt _ (by norm_num)))
  | clrerr => exact inv_clearErrors (inv_successCompletion h) rfl

theorem inv_exec {i : Instr} {s t : State} (h : s.Inv) (hw : i.WellFormed) (hx : exec i s = .next t) : t.Inv := by
  rcases exec_cases hx with ⟨e, -, rfl⟩ | ⟨u, hu, rfl⟩
  · exact inv_errorCompletion h e
  · exact inv_effect h hw hu

theorem inv_runCommand {c : Word} {s t : State} (h : s.Inv) (hx : runCommand c s = .next t) : t.Inv := by
  rcases runCommand_cases hx with ⟨i, hdec, hexec⟩ | rfl
  · exact inv_exec h (wellFormed_of_decode hdec) hexec
  · exact inv_errorCompletion h .illegal

/-- Settles O52: every field of the reset state has its reset value of R42. -/
theorem resetMeetsInvariant : Obligations.ResetMeetsInvariant where
  precLegal := .inl rfl
  regsCanonical := canonical_nil
  regsAddressable := nofun
  noErrNoFirst := fun _ => rfl
  errFirst := nofun
  lastErrLegal := by decide
  firstErrLegal := by decide
  noDigest := fun _ => ⟨rfl, rfl⟩
  estZBound := by decide
  estInfoLegal := ⟨0, 0, by decide, by decide, rfl⟩
  resultBound := by decide

/-- The reset input meets the invariant whatever the state held before. -/
theorem inv_resetBlock (s : State) : s.resetBlock.Inv := { resetMeetsInvariant with }

/-- Settles O53: by the cases of a step; a stored operand touches nothing the invariant speaks of, and a command keeps
it by `inv_runCommand`. -/
theorem stepKeepsInvariant : Obligations.StepKeepsInvariant := by
  intro s t h hstep
  rcases step_cases hstep with ⟨-, rfl⟩ | ⟨rest, r, rfl⟩ | ⟨rest, v, rfl⟩ | ⟨rest, v, rfl⟩ | ⟨rest, v, rfl⟩ |
    ⟨rest, c, -, hrun⟩ | ⟨rest, -, rfl⟩
  · exact h
  · exact inv_answer h rest r
  · exact { inv_answer h rest .writeDone with }
  · exact { inv_answer h rest .writeDone with }
  · exact { inv_answer h rest .writeDone with }
  · exact inv_runCommand (inv_answer h rest .writeDone) hrun
  · exact inv_resetBlock _

end Sys2Proof.Proofs

/-! ## Proofs: what the host cannot observe (R35, R36, R42, R251) -/

namespace Sys2Proof.Proofs

open Sys2Proof.Machine Sys2Proof.Laws

/-- Two outcomes are next states that no sequence of accesses can tell apart. -/
def Agree (o q : Host.Outcome State Fault Refusal) : Prop :=
  ∃ s' t', o = .next s' ∧ q = .next t' ∧ SameObservable s' t'

theorem agree_next {s t : State} (h : SameObservable s t) : Agree (.next s) (.next t) := ⟨s, t, rfl, rfl, h⟩

/-- Two tests with the same answer lead both outcomes into the same branch. -/
theorem agree_ite {c d : Prop} [Decidable c] [Decidable d] {o o' q q' : Host.Outcome State Fault Refusal}
    (hcd : c ↔ d) (hthen : c → Agree o q) (helse : ¬ c → Agree o' q') :
    Agree (if c then o else o') (if d then q else q') := by
  by_cases hc : c
  · rw [if_pos hc, if_pos (hcd.1 hc)]
    exact hthen hc
  · rw [if_neg hc, if_neg (mt hcd.2 hc)]
    exact helse hc

section Observers

variable {s t : State} (h : SameObservable s t)
include h

/-! ### What the two states have in common -/

theorem sameObservable_p : s.p = t.p := congrArg BitVec.toNat h.prec

theorem sameObservable_m : s.m = t.m := congrArg (2 ^ ·) (sameObservable_p h)

theorem sameObservable_configured : s.configured = t.configured := by simp only [State.configured, h.prec]

theorem sameObservable_reg (hp : s.prec ≠ 0) {i : Nat} (hi : i < 2 ^ s.p) : s.reg i = t.reg i :=
  h.entries ((configured_eq_true s).2 hp) i hi

theorem sameObservable_status : s.status = t.status := by
  simp only [State.status, sameObservable_configured h, h.prec, h.firstErr, h.lastErr, h.dvalid, h.hopen, h.err]

theorem sameObservable_alphaView : s.alphaView = t.alphaView := by
  simp only [State.alphaView, sameObservable_configured h, sameObservable_p h]

/-- The host reads the same word at every register of the window. -/
theorem sameObservable_readReg (r : BusReg) : s.readReg r = t.readReg r := by
  cases r with
  | id | cmd => rfl
  | ctrl => simp only [State.readReg, State.ctrl, h.ie]
  | status => exact sameObservable_status h
  | data0 => exact h.data0
  | data1 => exact h.data1
  | digestHi => exact h.digestHi
  | digestLo => exact h.digestLo
  | result => exact h.result
  | estZ => exact h.estZ
  | estInfo => exact h.estInfo
  | hlen => exact h.hlen
  | alpha => exact sameObservable_alphaView h
  | param => simp only [State.readReg, State.paramWord, h.params]

theorem sameObservable_readWindow (off : Nat) : s.readWindow off = t.readWindow off := by
  unfold State.readWindow
  split
  · exact sameObservable_readReg h _
  · rfl

theorem sameObservable_harmonicSum (hp : s.prec ≠ 0) : s.harmonicSum = t.harmonicSum := by
  rw [harmonicSum_eq, harmonicSum_eq, ← sameObservable_p h]
  exact Finset.sum_congr rfl fun i hi => by rw [sameObservable_reg h hp (Finset.mem_range.1 hi)]

theorem sameObservable_zeroCount (hp : s.prec ≠ 0) : s.zeroCount = t.zeroCount := by
  rw [zeroCount_eq, zeroCount_eq, ← sameObservable_p h]
  exact congrArg _ (Finset.filter_congr fun i hi => by rw [sameObservable_reg h hp (Finset.mem_range.1 hi)])

theorem sameObservable_scaledNumerator : s.scaledNumerator = t.scaledNumerator := by
  simp only [State.scaledNumerator, sameObservable_p h]

theorem sameObservable_finishedDigest (ho : s.hopen = true) (r : Nat) : s.finishedDigest r = t.finishedDigest r := by
  obtain ⟨h1, h2⟩ := h.accumulators ho
  rw [finishedDigest_eq, finishedDigest_eq, h1, h2, h.data0, h.data1, h.hlen]

/-! ### The same write on both sides -/

theorem sameObservable_await (rest : List HostEvent) : SameObservable (s.await rest) (t.await rest) :=
  { h with pending := rfl }

theorem sameObservable_answer (r : BusResponse) : SameObservable (s.answer r) (t.answer r) :=
  { h with response := rfl }

theorem sameObservable_writeCtrl (v : Word) : SameObservable (s.writeCtrl v) (t.writeCtrl v) := { h with ie := rfl }

theorem sameObservable_setData0 (v : Word) : SameObservable (s.setData0 v) (t.setData0 v) := { h with data0 := rfl }

theorem sameObservable_setData1 (v : Word) : SameObservable (s.setData1 v) (t.setData1 v) := { h with data1 := rfl }

theorem sameObservable_setResult {v w : Word} (hv : v = w) : SameObservable (s.setResult v) (t.setResult w) :=
  { h with result := hv }

theorem sameObservable_setEstimate {a b c a' b' c' : Word} (ha : a = a') (hb : b = b') (hc : c = c') :
    SameObservable (s.setEstimate a b c) (t.setEstimate a' b' c') :=
  { h with result := ha, estZ := hb, estInfo := hc }

theorem sameObservable_setHash {a b c a' b' c' : Word} (ha : a = a') (hb : b = b') (hc : c = c') :
    SameObservable (s.setHash a b c) (t.setHash a' b' c') :=
  { h with hlen := hc, accumulators := fun _ => ⟨ha, hb⟩ }

/-- Opening a hash makes the accumulators observable, so they must be equal. -/
theorem sameObservable_openHash (h1 : s.h1 = t.h1) (h2 : s.h2 = t.h2) : SameObservable s.openHash t.openHash :=
  { h with hopen := rfl, accumulators := fun _ => ⟨h1, h2⟩ }

theorem sameObservable_clearErrors : SameObservable s.clearErrors t.clearErrors := { h with err := rfl, firstErr := rfl }

theorem sameObservable_successCompletion : SameObservable s.successCompletion t.successCompletion :=
  { h with lastErr := rfl }

theorem sameObservable_errorCompletion (e : ErrCode) : SameObservable (s.errorCompletion e) (t.errorCompletion e) :=
  { h with
    err := rfl
    lastErr := rfl
    firstErr := by simp only [errorCompletion_firstErr, h.err, h.firstErr] }

/-- After `EINIT` both arrays are 0 everywhere. -/
theorem sameObservable_construct {p : Nat} (h4 : 4 ≤ p) (h16 : p ≤ 16) :
    SameObservable (s.construct p) (t.construct p) :=
  { h with
    prec := rfl
    entries := fun _ i _ => by rw [construct_reg s h4 h16, construct_reg t h4 h16] }

/-- Raising an addressable entry: the entry written agrees because the old one does. -/
theorem sameObservable_raiseReg (hs : RegFile.Canonical s.regs) (ht : RegFile.Canonical t.regs) (hp : s.prec ≠ 0)
    {i : Nat} (hi : i < 2 ^ s.p) (v : Nat) : SameObservable (s.raiseReg i v) (t.raiseReg i v) :=
  { h with
    entries := fun _ j hj => by
      rw [reg_raiseReg hs hp, reg_raiseReg ht (h.prec ▸ hp), sameObservable_reg h hp hi, sameObservable_reg h hp hj] }

theorem sameObservable_registerUpdate (hs : RegFile.Canonical s.regs) (ht : RegFile.Canonical t.regs) (hp : s.prec ≠ 0)
    (d : BitVec 128) : SameObservable (s.registerUpdate d) (t.registerUpdate d) := by
  rw [registerUpdate_eq, registerUpdate_eq, ← h.params, ← sameObservable_p h]
  exact sameObservable_raiseReg h hs ht hp (updateIndex_lt _ _) _

/-- `HFINAL` closes the hash, so the two free values it leaves in the accumulators need not agree (R35). -/
theorem sameObservable_finalised (ho : s.hopen = true) (r : Nat) : SameObservable (s.finalised r) (t.finalised r) where
  data0 := by simpa using h.data0
  data1 := by simpa using h.data1
  digestHi := by simp [sameObservable_finishedDigest h ho]
  digestLo := by simp [sameObservable_finishedDigest h ho]
  result := by simpa using h.result
  estZ := by simpa using h.estZ
  estInfo := by simpa using h.estInfo
  hlen := by simp [h.hlen]
  hopen := by simp
  dvalid := by simp
  prec := by simpa using h.prec
  err := by simpa using h.err
  lastErr := by simpa using h.lastErr
  firstErr := by simpa using h.firstErr
  ie := by simpa using h.ie
  params := by simpa using h.params
  pending := by simpa using h.pending
  response := by simpa using h.response
  accumulators := by simp
  entries := by simpa using h.entries

/-- After a reset nothing of the state before is left but the parameters and the accesses to come. -/
theorem sameObservable_resetBlock : SameObservable s.resetBlock t.resetBlock where
  data0 := rfl
  data1 := rfl
  digestHi := rfl
  digestLo := rfl
  result := rfl
  estZ := rfl
  estInfo := rfl
  hlen := rfl
  hopen := rfl
  dvalid := rfl
  prec := rfl
  err := rfl
  lastErr := rfl
  firstErr := rfl
  ie := rfl
  params := h.params
  pending := h.pending
  response := rfl
  accumulators := nofun
  entries := nofun

theorem agree_fail (e : ErrCode) : Agree (fail e s) (fail e t) := agree_next (sameObservable_errorCompletion h e)

theorem agree_succeed : Agree (succeed s) (succeed t) := agree_next (sameObservable_successCompletion h)

/-! ### The same command on both sides -/

theorem agree_execHinit : Agree (execHinit s) (execHinit t) := by
  have hseed : seedWord s.params.hashSeed = seedWord t.params.hashSeed := by rw [h.params]
  exact agree_succeed (sameObservable_openHash (sameObservable_setHash h hseed hseed rfl) hseed hseed)

theorem agree_execHblock : Agree (execHblock s) (execHblock t) :=
  agree_ite (by rw [h.hopen]) (fun _ => agree_fail h .seq) fun ho => by
    obtain ⟨h1, h2⟩ := h.accumulators (by simpa using ho)
    rw [h1, h2, h.data0, h.data1, h.hlen]
    exact agree_succeed (sameObservable_setHash h rfl rfl rfl)

theorem agree_execHfinal (hs : s.Inv) (ht : t.Inv) (r : Nat) (add : Bool) :
    Agree (execHfinal r add s) (execHfinal r add t) :=
  agree_ite (by rw [sameObservable_configured h]) (fun _ => agree_fail h .noCfg) fun hc =>
  agree_ite (by rw [h.hopen]) (fun _ => agree_fail h .seq) fun ho => by
    have hopen : s.hopen = true := by simpa using ho
    have hfinal := sameObservable_finalised h hopen r
    refine agree_ite Iff.rfl (fun hadd => ?_) fun _ => agree_succeed hfinal
    have hp : s.prec ≠ 0 := fun hp => hc ⟨hadd, (configured_eq_false s).2 hp⟩
    rw [sameObservable_finishedDigest h hopen]
    exact agree_succeed (sameObservable_registerUpdate hfinal (inv_finalised hs r).regsCanonical
      (inv_finalised ht r).regsCanonical (by simpa using hp) _)

theorem agree_execEinit (p : Nat) : Agree (execEinit p s) (execEinit p t) :=
  agree_ite Iff.rfl (fun _ => agree_fail h .domain) fun hp => by
    simp only [Config.pMin, Config.pMax, not_or, Nat.not_lt] at hp
    exact agree_succeed (sameObservable_construct h hp.1 hp.2)

theorem agree_execRupd (hs : s.Inv) (ht : t.Inv) : Agree (execRupd s) (execRupd t) :=
  agree_ite (by rw [sameObservable_configured h]) (fun _ => agree_fail h .noCfg) fun hc =>
  agree_ite (by rw [h.dvalid]) (fun _ => agree_fail h .seq) fun _ => by
    rw [h.digestHi, h.digestLo]
    exact agree_succeed (sameObservable_registerUpdate h hs.regsCanonical ht.regsCanonical (by simpa using hc) _)

theorem agree_execRmax (hs : s.Inv) (ht : t.Inv) (i v ps : Nat) : Agree (execRmax i v ps s) (execRmax i v ps t) :=
  agree_ite (by rw [sameObservable_configured h]) (fun _ => agree_fail h .noCfg) fun hc =>
  agree_ite (by rw [sameObservable_p h]) (fun _ => agree_fail h .prec) fun _ =>
  agree_ite (by rw [sameObservable_m h]) (fun _ => agree_fail h .index) fun hi =>
  agree_ite Iff.rfl (fun _ => agree_fail h .value) fun _ =>
    agree_succeed (sameObservable_raiseReg h hs.regsCanonical ht.regsCanonical (by simpa using hc) (Nat.lt_of_not_le hi) v)

theorem agree_execRread (i : Nat) : Agree (execRread i s) (execRread i t) :=
  agree_ite (by rw [sameObservable_configured h]) (fun _ => agree_fail h .noCfg) fun hc =>
  agree_ite (by rw [sameObservable_m h]) (fun _ => agree_fail h .index) fun hi =>
    agree_succeed (sameObservable_setResult h
      (by rw [sameObservable_reg h (by simpa using hc) (Nat.lt_of_not_le hi)]))

/-- `CARD` reads the precision and the addressable entries only (R177). -/
theorem agree_execCard : Agree (execCard s) (execCard t) :=
  agree_ite (by rw [sameObservable_configured h]) (fun _ => agree_fail h .noCfg) fun hc => by
    have hp : s.prec ≠ 0 := by simpa using hc
    rw [sameObservable_harmonicSum h hp, sameObservable_zeroCount h hp, sameObservable_scaledNumerator h,
      sameObservable_m h]
    split
    · exact agree_fail h .domain
    · exact agree_succeed (sameObservable_setEstimate h rfl rfl rfl)

theorem agree_execRank (mb : Nat) : Agree (execRank mb s) (execRank mb t) := by
  unfold execRank
  rw [h.data0]
  split
  · exact agree_fail h .domain
  · exact agree_succeed (sameObservable_setResult h rfl)

theorem agree_execAlpha (p : Nat) : Agree (execAlpha p s) (execAlpha p t) := by
  unfold execAlpha
  split
  · exact agree_fail h .domain
  · exact agree_succeed (sameObservable_setResult h rfl)

theorem agree_exec (hs : s.Inv) (ht : t.Inv) (i : Instr) : Agree (exec i s) (exec i t) := by
  cases i with
  | nop => exact agree_succeed h
  | hinit => exact agree_execHinit h
  | hblock => exact agree_execHblock h
  | hfinal r add => exact agree_execHfinal h hs ht r add
  | einit p => exact agree_execEinit h p
  | rupd => exact agree_execRupd h hs ht
  | rmax i v ps => exact agree_execRmax h hs ht i v ps
  | rread i => exact agree_execRread h i
  | card => exact agree_execCard h
  | rank mb => exact agree_execRank h mb
  | alpha p => exact agree_execAlpha h p
  | clrerr => exact agree_succeed (sameObservable_clearErrors h)

/-! ### The same access on both sides -/

theorem agree_runCommand (hs : s.Inv) (ht : t.Inv) (c : Word) : Agree (runCommand c s) (runCommand c t) := by
  unfold runCommand
  split
  · exact agree_exec h hs ht _
  · exact agree_fail h .illegal

theorem agree_writeWindow (hs : s.Inv) (ht : t.Inv) (off : Nat) (v : Word) :
    Agree (writeWindow off v s) (writeWindow off v t) := by
  unfold writeWindow
  split
  · rename_i r _
    cases r with
    | ctrl => exact agree_next (sameObservable_writeCtrl h v)
    | cmd => exact agree_runCommand h hs ht v
    | data0 => exact agree_next (sameObservable_setData0 h v)
    | data1 => exact agree_next (sameObservable_setData1 h v)
    | id | status | digestHi | digestLo | result | estZ | estInfo | hlen | alpha | param => exact agree_next h
  · exact agree_next h

theorem agree_accept (hs : s.Inv) (ht : t.Inv) (e : HostEvent) (rest : List HostEvent) :
    Agree (accept e (s.await rest)) (accept e (t.await rest)) := by
  have hrest := sameObservable_await h rest
  cases e with
  | reset => exact agree_next (sameObservable_resetBlock hrest)
  | read addr bytes =>
    simp only [accept, await_params, h.params]
    split
    · rw [sameObservable_readWindow hrest]
      exact agree_next (sameObservable_answer hrest _)
    · exact agree_next (sameObservable_answer hrest _)
  | write addr bytes v =>
    simp only [accept, await_params, h.params]
    split
    · exact agree_writeWindow (sameObservable_answer hrest _) (inv_answer hs rest _) (inv_answer ht rest _) _ v
    · exact agree_next (sameObservable_answer hrest _)

theorem agree_step (hs : s.Inv) (ht : t.Inv) : Agree (step s) (step t) := by
  cases hp : s.pending with
  | nil =>
    rw [step_idle hp, step_idle (h.pending ▸ hp)]
    exact agree_next h
  | cons e rest =>
    rw [step_cons hp, step_cons (h.pending ▸ hp)]
    exact agree_accept h hs ht e rest

end Observers

/-- Settles O58: both states take the same event, every check has the same answer in both, and every write keeps what
the host can observe equal; the answer is part of that. -/
theorem unspecifiedStateIsUnobservable : Obligations.UnspecifiedStateIsUnobservable := by
  intro s t hs ht h
  obtain ⟨s', t', hs', ht', h'⟩ := agree_step h hs ht
  exact ⟨s', t', hs', ht', h', h'.response⟩

end Sys2Proof.Proofs

/-! ## Proofs: the register map (R22 to R34) and the writes of the host (R23, R26, R58) -/

namespace Sys2Proof.Proofs

open Sys2Proof.Machine Sys2Proof.Laws

/-! ### The step on an admitted access -/

theorem step_read {s : State} {rest : List HostEvent} {off : Nat} (hoff : off < 256) (h8 : off % 8 = 0)
    (h : s.pending = .read (s.params.base + off) 8 :: rest) :
    step s = .next ((s.await rest).answer (.readData ((s.await rest).readWindow off))) := by
  rw [step_cons h]
  simp only [accept, await_params, admittedOffset_of_aligned _ hoff h8]

theorem step_write {s : State} {rest : List HostEvent} {off : Nat} {v : Word} (hoff : off < 256) (h8 : off % 8 = 0)
    (h : s.pending = .write (s.params.base + off) 8 v :: rest) :
    step s = writeWindow off v ((s.await rest).answer .writeDone) := by
  rw [step_cons h]
  simp only [accept, await_params, admittedOffset_of_aligned _ hoff h8]

theorem readWindow_reserved (s : State) {off : Nat} (h : 0x70 ≤ off) : s.readWindow off = 0 := by
  simp only [State.readWindow, busRegAt_reserved h]

theorem writeWindow_reserved (s : State) {off : Nat} (v : Word) (h : 0x70 ≤ off) : writeWindow off v s = .next s := by
  simp only [writeWindow, busRegAt_reserved h]

/-- The registers that a write leaves as they are. -/
abbrev ReadOnly (r : BusReg) : Prop := r ≠ .ctrl ∧ r ≠ .cmd ∧ r ≠ .data0 ∧ r ≠ .data1

theorem writeReg_readOnly {r : BusReg} (h : ReadOnly r) (v : Word) (s : State) : writeReg r v s = .next s := by
  obtain ⟨hctrl, hcmd, hdata0, hdata1⟩ := h
  cases r with
  | ctrl => exact absurd rfl hctrl
  | cmd => exact absurd rfl hcmd
  | data0 => exact absurd rfl hdata0
  | data1 => exact absurd rfl hdata1
  | id | status | digestHi | digestLo | result | estZ | estInfo | hlen | alpha | param => rfl

/-- Each of these offsets of the map is that of a read-only register. -/
theorem readOnly_at_offset :
    ∀ off ∈ [0x00, 0x10, 0x30, 0x38, 0x40, 0x48, 0x50, 0x58, 0x60, 0x68], ∃ r ∈ busRegs, ReadOnly r ∧ r.offset = off := by
  decide

/-- Settles O10: no register stands at a reserved offset, and a write to a read-only register is ignored. -/
theorem reservedAndReadOnlyOffsetsIgnoreWrites : Obligations.ReservedAndReadOnlyOffsetsIgnoreWrites := by
  intro s rest off v
  refine ⟨fun hlo hhi h8 h => ?_, ?_⟩
  · rw [step_read (by omega) h8 h, readWindow_reserved _ hlo]
    rfl
  · rintro (⟨hlo, hhi, h8⟩ | hmem) h
    · rw [step_write (by omega) h8 h, writeWindow_reserved _ v hlo]
      rfl
    · obtain ⟨r, -, hr, rfl⟩ := readOnly_at_offset off hmem
      have hw : s.pending = wr s.params.base r v :: rest := h
      rw [step_wr hw, writeReg_readOnly hr]
      rfl

/-- Settles O11: each of the three writes is the line `WR` of its register. -/
theorem hostWritesOneRegister : Obligations.HostWritesOneRegister := fun _ _ _ =>
  ⟨fun h => step_wr (r := .ctrl) h, fun h => step_wr (r := .data0) h, fun h => step_wr (r := .data1) h⟩

/-! ### Words put together from fields

The word is read at the width that is the sum of its fields' widths, so that the library's lemmas about an append
apply; `simp` must then not add the widths up. -/

/-- `STATUS` at the width that is the sum of its fields' widths. -/
def statusFields (s : State) : BitVec (35 + 5 + 8 + 8 + 4 + 1 + 1 + 1 + 1) := s.status

theorem status_flags (s : State) :
    (statusFields s).getLsbD 0 = s.err ∧ (statusFields s).getLsbD 1 = s.hopen ∧ (statusFields s).getLsbD 2 = s.dvalid ∧
    (statusFields s).getLsbD 3 = s.configured := by
  unfold statusFields State.status
  refine ⟨?_, ?_, ?_, ?_⟩ <;> simp [BitVec.getElem_append, -Nat.reduceAdd]

theorem status_codes (s : State) :
    (statusFields s).extractLsb' 4 4 = 0 ∧ (statusFields s).extractLsb' 8 8 = s.lastErr ∧
    (statusFields s).extractLsb' 16 8 = s.firstErr ∧ (statusFields s).extractLsb' 24 5 = s.prec ∧
    (statusFields s).extractLsb' 29 35 = 0 := by
  unfold statusFields State.status
  refine ⟨?_, ?_, ?_, ?_, ?_⟩ <;>
    simp [BitVec.extractLsb'_append_eq_of_le, BitVec.extractLsb'_append_eq_of_add_le, -Nat.reduceAdd]

/-- Settles O13: each field of `STATUS` is cut out of the word where the map puts it. -/
theorem statusFieldsAreAsMapped : Obligations.StatusFieldsAreAsMapped := by
  intro s
  obtain ⟨herr, hopen, hvalid, hcfg⟩ := status_flags s
  exact ⟨herr, hopen, hvalid, (Bool.eq_iff_iff.1 hcfg).trans (configured_eq_true s), status_codes s⟩

theorem ctrl_fields (s : State) : s.ctrl.getLsbD 0 = s.ie ∧ s.ctrl.extractLsb' 1 63 = 0 :=
  ⟨(BitVec.getLsbD_append (x := (0 : BitVec 63)) (y := BitVec.ofBool s.ie)).trans (by simp),
    BitVec.extractLsb'_append_eq_left (a := (0 : BitVec 63)) (b := BitVec.ofBool s.ie)⟩

theorem alphaView_unconfigured {s : State} (h : s.prec = 0) : s.alphaView = 0 := by
  simp [State.alphaView, (configured_eq_false s).2 h]

theorem alphaView_configured {s : State} {a : BitVec 32} (h : s.prec ≠ 0) (ha : alphaRom s.p = some a) :
    s.alphaView = a.setWidth 64 := by
  simp [State.alphaView, (configured_eq_true s).2 h, alphaInt, ha]

/-- `PARAM` at the width that is the sum of its fields' widths. -/
def paramFields (s : State) : BitVec (30 + 2 + 32) := s.paramWord

theorem paramWord_fields (s : State) :
    (paramFields s).extractLsb' 0 32 = s.params.hashSeed ∧
    (paramFields s).extractLsb' 32 2 = BitVec.ofNat 2 s.params.updWord.val ∧ (paramFields s).extractLsb' 34 30 = 0 := by
  unfold paramFields State.paramWord
  refine ⟨?_, ?_, ?_⟩ <;>
    simp [BitVec.extractLsb'_append_eq_of_le, BitVec.extractLsb'_append_eq_of_add_le, -Nat.reduceAdd]

/-- `PARAM[33:32]` is `UPD_BIT_OFFSET / 32` (R33). -/
theorem toNat_updWord (q : Config.Params) : (BitVec.ofNat 2 q.updWord.val).toNat = q.updBitOffset / 32 := by
  rw [BitVec.toNat_ofNat, Nat.mod_eq_of_lt q.updWord.isLt, Config.Params.updBitOffset,
    Nat.mul_div_cancel_left _ (by norm_num)]

/-- Settles O14: `ID` is a constant, and `CTRL`, `ALPHA` and `PARAM` read as their fields. -/
theorem constantAndViewRegistersRead : Obligations.ConstantAndViewRegistersRead := by
  intro s
  obtain ⟨hie, hzero⟩ := ctrl_fields s
  obtain ⟨hseed, hupd, hhigh⟩ := paramWord_fields s
  exact ⟨rfl, hie, hzero, alphaView_unconfigured, fun _ => alphaView_configured, hseed,
    (congrArg BitVec.toNat hupd).trans (toNat_updWord s.params), hhigh⟩

end Sys2Proof.Proofs

/-! ## Proofs: the entries only rise (R44) -/

namespace Sys2Proof.Proofs

open Sys2Proof.Machine Sys2Proof.Laws

theorem reg_raiseReg_ge {s : State} (hc : RegFile.Canonical s.regs) (hp : s.prec ≠ 0) (i j : Nat) {v : Nat}
    (hv : v ≤ 31) : (s.reg j).toNat ≤ ((s.raiseReg i v).reg j).toNat := by
  rw [reg_raiseReg hc hp]
  split
  · subst_vars
    exact maxEntry_ge _ hv
  · exact Nat.le_refl _

theorem reg_registerUpdate_ge {s : State} (hi : s.Inv) (hp : s.prec ≠ 0) (d : BitVec 128) (j : Nat) :
    (s.reg j).toNat ≤ ((s.registerUpdate d).reg j).toNat := by
  obtain ⟨h4, h16⟩ := Inv_prec_range hi hp
  obtain ⟨-, hrank⟩ := updateRank_range (updateWord d s.params.updBitOffset) (p := s.p) (by omega)
  rw [registerUpdate_eq]
  exact reg_raiseReg_ge hi.regsCanonical hp _ j (by omega)

/-- No effect but that of `EINIT` lowers an entry of a configured estimator. -/
theorem effect_reg_ge {i : Instr} {s u : State} (hinv : s.Inv) (hu : Effect i s u) (hi : ∀ p, i ≠ .einit p)
    (hp : s.prec ≠ 0) (j : Nat) : (s.reg j).toNat ≤ (u.reg j).toNat := by
  cases hu with
  | einit => exact absurd rfl (hi _)
  | rupd => exact reg_registerUpdate_ge hinv hp _ j
  | hfinalAdd r =>
    have h := reg_registerUpdate_ge (inv_finalised hinv r) (by simpa using hp)
      (digestOf (s.finishedDigest r).1 (s.finishedDigest r).2) j
    rwa [finalised_reg] at h
  | rmax _ _ hv => exact reg_raiseReg_ge hinv.regsCanonical hp _ j hv
  | nop | hinit | hblock | hfinal | rread | card | rank | alpha | clrerr => simp

/-- Only four commands have an effect on an entry. -/
theorem effect_reg_eq {i : Instr} {s u : State} (hu : Effect i s u) (heinit : ∀ p, i ≠ .einit p) (hrupd : i ≠ .rupd)
    (hfinal : ∀ r, i ≠ .hfinal r true) (hrmax : ∀ a b c, i ≠ .rmax a b c) (j : Nat) : u.reg j = s.reg j := by
  cases hu with
  | einit => exact absurd rfl (heinit _)
  | rupd => exact absurd rfl hrupd
  | hfinalAdd r => exact absurd rfl (hfinal r)
  | rmax => exact absurd rfl (hrmax _ _ _)
  | nop | hinit | hblock | hfinal | rread | card | rank | alpha | clrerr => simp

/-- Settles O54: an error completion leaves the entries, and the effects are those of the two lemmas before. -/
theorem entriesAreMonotonic : Obligations.EntriesAreMonotonic := by
  intro i s t hinv h heinit
  rcases exec_cases h with ⟨e, -, rfl⟩ | ⟨u, hu, rfl⟩
  · simp
  · simp only [successCompletion_reg]
    exact ⟨effect_reg_ge hinv hu heinit, effect_reg_eq hu heinit⟩

end Sys2Proof.Proofs

/-! ## Proofs: the bus and the layout of words in memory (20_memory.md) -/

namespace Sys2Proof.Proofs

open Sys2Proof.Machine Sys2Proof.Laws

/-! ### Accesses that are not admitted (R52, R55, R68) -/

theorem step_read_refused {s : State} {rest : List HostEvent} {addr bytes : Nat}
    (hoff : admittedOffset s.params.base addr bytes = none) (h : s.pending = .read addr bytes :: rest) :
    step s = .next ((s.await rest).answer (.readError 0)) := by
  rw [step_cons h]
  simp only [accept, await_params, hoff]

theorem step_write_refused {s : State} {rest : List HostEvent} {addr bytes : Nat} {v : Word}
    (hoff : admittedOffset s.params.base addr bytes = none) (h : s.pending = .write addr bytes v :: rest) :
    step s = .next ((s.await rest).answer .writeError) := by
  rw [step_cons h]
  simp only [accept, await_params, hoff]

/-- Settles O7: the block admits no access of another width or at another offset. -/
theorem refusedAccessHasNoEffect : Obligations.RefusedAccessHasNoEffect := by
  intro s rest off bytes v _ hbad
  have hoff := admittedOffset_of_refused s.params.base hbad
  exact ⟨step_read_refused hoff, step_write_refused hoff⟩

/-- Settles O8: the block admits no access outside its window. -/
theorem accessOutsideWindowHasNoEffect : Obligations.AccessOutsideWindowHasNoEffect := by
  intro s rest addr bytes v hout
  have hoff := admittedOffset_of_outside bytes hout
  exact ⟨step_read_refused hoff, step_write_refused hoff⟩

/-! ### Reads (R51, R53, R58) -/

/-- The register map as pairs: each register's offset and what a read of it returns. -/
def registerMap (s : State) : List (Nat × Word) := busRegs.map fun r => (r.offset, s.readReg r)

theorem exists_of_mem_registerMap {s : State} {off : Nat} {v : Word} (h : (off, v) ∈ registerMap s) :
    ∃ r : BusReg, r.offset = off ∧ s.readReg r = v := by
  obtain ⟨r, -, hr⟩ := List.mem_map.1 h
  exact ⟨r, Prod.mk.inj hr⟩

/-- No register's value depends on the accesses to come. -/
theorem readReg_await (s : State) (rest : List HostEvent) (r : BusReg) : (s.await rest).readReg r = s.readReg r := by
  cases r <;> rfl

/-- Settles O9: the list of the statement is the register map, and each read is the line `RD` (R79) of its register. -/
theorem readAnswersRegisterWithoutSideEffect : Obligations.ReadAnswersRegisterWithoutSideEffect := by
  intro s rest off v hmem h
  obtain ⟨r, rfl, rfl⟩ := exists_of_mem_registerMap (s := s) hmem
  have hrd : s.pending = rd s.params.base r :: rest := h
  rw [step_rd hrd, readReg_await]
  rfl

theorem windowByte_eq_byteOfWord (s : State) {off k : Nat} (h8 : off % 8 = 0) (hoff : off < 256) (hk : k < 8) :
    s.windowByte (s.params.base + off + k) = some (byteOfWord (s.readWindow off) k) := by
  have hdiff : s.params.base + off + k - s.params.base = off + k := by omega
  have hlane : (off + k) % 8 = k := by omega
  unfold State.windowByte
  rw [if_pos ⟨by omega, by simp only [Config.windowBytes]; omega⟩]
  simp only [hdiff, hlane, Nat.add_sub_cancel]

/-- Settles O12: an aligned offset and the byte in its register are the address's quotient and remainder by 8. -/
theorem windowIsLittleEndian : Obligations.WindowIsLittleEndian := fun s _ _ => windowByte_eq_byteOfWord s

/-! ### Stream bytes in `DATA0` and `DATA1` (R56, R80) -/

/-- The lowest byte of a little-endian word is its first byte. -/
theorem extractLsb'_le64_cons_zero (b : Byte) (bs : List Byte) : (le64 (b :: bs)).extractLsb' 0 8 = b := by
  ext i hi
  simp [le64, hi, show i < 64 by omega]

/-- Above its lowest byte a little-endian word holds the word of the other bytes. -/
theorem extractLsb'_le64_cons_succ (b : Byte) (bs : List Byte) {k : Nat} (hk : k + 1 < 8) :
    (le64 (b :: bs)).extractLsb' (8 * (k + 1)) 8 = (le64 bs).extractLsb' (8 * k) 8 := by
  ext i hi
  have hsub : 8 * (k + 1) + i - 8 = 8 * k + i := by omega
  have h8 : 8 ≤ 8 * (k + 1) + i := by omega
  have h64 : 8 * (k + 1) + i < 64 := by omega
  have hlane : 8 * k + i < 64 := by omega
  simp [le64, hsub, h64, hlane, Nat.not_lt.2 h8, BitVec.getLsbD_of_ge b _ h8]

/-- Byte `k` of a little-endian word is byte `k` of the list, 0 past its end (R10). -/
theorem extractLsb'_le64 (bs : List Byte) {k : Nat} (hk : k < 8) : (le64 bs).extractLsb' (8 * k) 8 = bs.getD k 0 := by
  induction bs generalizing k with
  | nil => simp [le64]
  | cons b bs ih =>
    cases k with
    | zero => exact extractLsb'_le64_cons_zero b bs
    | succ k =>
      rw [extractLsb'_le64_cons_succ b bs hk, ih (by omega)]
      rfl

/-- Byte `k` of the little-endian word of the (at most) eight stream bytes from byte `n` on. -/
theorem extractLsb'_le64_take_drop (bytes : List Byte) (n : Nat) {k : Nat} (hk : k < 8) :
    (le64 ((bytes.drop n).take 8)).extractLsb' (8 * k) 8 = bytes.getD (n + k) 0 := by
  rw [extractLsb'_le64 _ hk]
  simp [List.getElem?_take_of_lt hk]

/-- Settles O28: lanes 0 to 7 of the group are in the first word, lanes 8 to 15 in the second. -/
theorem groupWordsPackStreamBytes : Obligations.GroupWordsPackStreamBytes := by
  intro bytes b j hj
  unfold streamByte groupWords
  split
  next hlow => exact extractLsb'_le64_take_drop bytes (16 * b) hlow
  next hhigh =>
    have hlane : 16 * b + 8 + (j - 8) = 16 * b + j := by omega
    rw [extractLsb'_le64_take_drop bytes (16 * b + 8) (by omega), hlane]

end Sys2Proof.Proofs

/-! ## Proofs: the command word (30_encoding.md) -/

namespace Sys2Proof.Proofs

open Sys2Proof.Machine Sys2Proof.Laws

/-! ### What a command puts into its word, read back (R72, R73) -/

/-- The family `Laws.EncodeAdmits`, for every command. -/
theorem admits_encode {i : Instr} (h : i.WellFormed) : i.opcode.row.admits (encode i) = true := by
  cases i with
  | nop => exact EncodeAdmits.nop h
  | hinit => exact EncodeAdmits.hinit h
  | hblock => exact EncodeAdmits.hblock h
  | hfinal n add => exact EncodeAdmits.hfinal n add h
  | einit p => exact EncodeAdmits.einit p h
  | rupd => exact EncodeAdmits.rupd h
  | rmax i v ps => exact EncodeAdmits.rmax i v ps h
  | rread i => exact EncodeAdmits.rread i h
  | card => exact EncodeAdmits.card h
  | rank mb => exact EncodeAdmits.rank mb h
  | alpha p => exact EncodeAdmits.alpha p h
  | clrerr => exact EncodeAdmits.clrerr h

theorem fields_lt {i : Instr} (h : i.WellFormed) : i.fieldF < 2 ^ 8 ∧ i.fieldA < 2 ^ 16 ∧ i.fieldB < 2 ^ 16 := by
  cases i with
  | nop | hinit | hblock | rupd | card | clrerr => decide
  | hfinal n add =>
    have hn := wellFormed_hfinal.1 h
    have hf : n + (if add then 16 else 0) < 2 ^ 8 := by split <;> omega
    exact ⟨hf, Nat.two_pow_pos _, Nat.two_pow_pos _⟩
  | einit p => exact ⟨(wellFormed_einit.1 h).trans (by norm_num), Nat.two_pow_pos _, Nat.two_pow_pos _⟩
  | rmax i v ps =>
    obtain ⟨hi, hv, hps⟩ := wellFormed_rmax.1 h
    exact ⟨hps.trans (by norm_num), hi, hv⟩
  | rread i => exact ⟨Nat.two_pow_pos _, wellFormed_rread.1 h, Nat.two_pow_pos _⟩
  | rank mb => exact ⟨(wellFormed_rank.1 h).trans (by norm_num), Nat.two_pow_pos _, Nat.two_pow_pos _⟩
  | alpha p => exact ⟨(wellFormed_alpha.1 h).trans (by norm_num), Nat.two_pow_pos _, Nat.two_pow_pos _⟩

/-- A field placed above a word that ends below it is added to the word. -/
theorem toNat_or_shiftLeft {x : Word} {k n : Nat} (hx : x.toNat < 2 ^ k) (hn : 2 ^ k * n < 2 ^ 64) :
    (x ||| (BitVec.ofNat 64 n <<< k)).toNat = x.toNat + 2 ^ k * n := by
  have hn64 : n < 2 ^ 64 := (Nat.le_mul_of_pos_left n (Nat.two_pow_pos k)).trans_lt hn
  rw [BitVec.toNat_or, BitVec.toNat_shiftLeft, BitVec.toNat_ofNat, Nat.mod_eq_of_lt hn64, Nat.shiftLeft_eq,
    Nat.mul_comm n, Nat.mod_eq_of_lt hn, Nat.or_comm, ← Nat.two_pow_add_eq_or_of_lt hx, Nat.add_comm]

theorem code_lt (op : Opcode) : op.code.toNat < 2 ^ 8 := by cases op <;> decide

/-- The fields of the encoding do not overlap, so their union is a sum (R73). -/
theorem toNat_encode {i : Instr} (h : i.WellFormed) :
    (encode i).toNat = i.opcode.code.toNat + 2 ^ 8 * i.fieldF + 2 ^ 16 * i.fieldA + 2 ^ 32 * i.fieldB := by
  obtain ⟨hF, hA, hB⟩ := fields_lt h
  have hcode := code_lt i.opcode
  have hwithF := toNat_or_shiftLeft (n := i.fieldF) hcode (by omega)
  have hwithA := toNat_or_shiftLeft (k := 16) (n := i.fieldA) (hwithF.trans_lt (by omega)) (by omega)
  have hwithB := toNat_or_shiftLeft (k := 32) (n := i.fieldB) (hwithA.trans_lt (by omega)) (by omega)
  rw [encode, hwithB, hwithA, hwithF]

theorem field_encode {i : Instr} (h : i.WellFormed) :
    field (encode i) 15 8 = i.fieldF ∧ field (encode i) 31 16 = i.fieldA ∧ field (encode i) 47 32 = i.fieldB := by
  obtain ⟨hF, hA, hB⟩ := fields_lt h
  have hcode := code_lt i.opcode
  simp only [field, toNat_encode h]
  omega

/-- A sub-field at the bottom of a field is the field's value modulo its size. -/
theorem field_eq_field_mod (c : Word) {hi top : Nat} (lo : Nat) (h : hi ≤ top) :
    field c hi lo = field c top lo % 2 ^ (hi + 1 - lo) :=
  (Nat.mod_mod_of_dvd _ (pow_dvd_pow 2 (by omega))).symm

/-- `PF`, `PSRC` and `MB` are sub-fields at the bottom of `F`. -/
theorem field_encode_low {i : Instr} (h : i.WellFormed) {hi : Nat} (hhi : hi ≤ 15) (hF : i.fieldF < 2 ^ (hi + 1 - 8)) :
    field (encode i) hi 8 = i.fieldF := by
  obtain ⟨hf, -, -⟩ := field_encode h
  rw [field_eq_field_mod _ 8 hhi, hf, Nat.mod_eq_of_lt hF]

theorem field_encode_tailn {n : Nat} {add : Bool} (h : (Instr.hfinal n add).WellFormed) :
    field (encode (.hfinal n add)) 11 8 = n := by
  have hn := wellFormed_hfinal.1 h
  obtain ⟨hf, -, -⟩ := field_encode h
  rw [field_eq_field_mod _ 8 (show 11 ≤ 15 by norm_num), hf, Instr.fieldF]
  split <;> omega

/-- `ADD = F[4]` is the bit above `TAILN` (R73). -/
theorem field_encode_add {n : Nat} {add : Bool} (h : (Instr.hfinal n add).WellFormed) :
    field (encode (.hfinal n add)) 12 12 = if add then 1 else 0 := by
  have hn := wellFormed_hfinal.1 h
  obtain ⟨hf, -, -⟩ := field_encode h
  have hbit : ∀ c : Word, field c 12 12 = field c 15 8 / 16 % 2 := fun c => by
    simp only [field]
    omega
  rw [hbit, hf, Instr.fieldF]
  split <;> omega

/-- The operands read from a command's encoding are those of the command. -/
theorem withOperands_encode {i : Instr} (h : i.WellFormed) : i.opcode.withOperands (encode i) = i := by
  cases i with
  | nop | hinit | hblock | rupd | card | clrerr => rfl
  | hfinal n add =>
    simp only [Instr.opcode, Opcode.withOperands, field_encode_tailn h, field_encode_add h]
    cases add <;> rfl
  | einit p => exact congrArg Instr.einit (field_encode_low h (by norm_num) (wellFormed_einit.1 h))
  | rmax i v ps =>
    obtain ⟨-, hi, hv⟩ := field_encode h
    have hps := field_encode_low h (hi := 12) (by norm_num) (wellFormed_rmax.1 h).2.2
    simp only [Instr.opcode, Opcode.withOperands, hi, hv, hps, Instr.fieldF, Instr.fieldA, Instr.fieldB]
  | rread i =>
    obtain ⟨-, hi, -⟩ := field_encode h
    exact congrArg Instr.rread hi
  | rank mb => exact congrArg Instr.rank (field_encode_low h (by norm_num) (wellFormed_rank.1 h))
  | alpha p => exact congrArg Instr.alpha (field_encode_low h (by norm_num) (wellFormed_alpha.1 h))

/-- Settles O2: the command's row admits its encoding, and the operands are read back from their fields. -/
theorem decodeOfEncodeIsIdentity : Obligations.DecodeOfEncodeIsIdentity := fun i h => by
  rw [decode_of_admits (admits_encode h), withOperands_encode h]

/-! ### No bit of a decoded word is ignored (R75) -/

/-- An operand read from its field and placed there again is the word's bits under the field's mask. -/
theorem shiftLeft_field (c : Word) (hi lo : Nat) {m : Word}
    (hm : ∀ j : Fin 64, m.getLsbD j.val = decide (lo ≤ j.val ∧ j.val ≤ hi)) :
    BitVec.ofNat 64 (field c hi lo) <<< lo = c &&& m := by
  refine BitVec.eq_of_getLsbD_eq fun j hj => ?_
  rw [BitVec.getLsbD_and, hm ⟨j, hj⟩, BitVec.getLsbD_shiftLeft, BitVec.getLsbD_ofNat, field,
    ← Nat.shiftRight_eq_div_pow, Nat.testBit_mod_two_pow, Nat.testBit_shiftRight]
  by_cases hlo : j < lo
  · simp [hlo, Nat.not_le.2 hlo]
  · have hle := Nat.not_lt.1 hlo
    have hhi : j - lo < hi + 1 - lo ↔ j ≤ hi := by omega
    simp [hj, hlo, hle, hhi, Nat.add_sub_of_le hle, show j - lo < 64 by omega, BitVec.getLsbD, Bool.and_comm]

theorem zero_shiftLeft_eq_and_zero (c : Word) (k : Nat) : BitVec.ofNat 64 0 <<< k = c &&& 0 := by simp

/-- An opcode and the word's bits under three field masks; together the masks cover the bits that the row leaves open. -/
theorem code_or_fields (op : Opcode) {c : Word} {f a b : Nat} {mF mA mB : Word} (hf : BitVec.ofNat 64 f <<< 8 = c &&& mF)
    (ha : BitVec.ofNat 64 a <<< 16 = c &&& mA) (hb : BitVec.ofNat 64 b <<< 32 = c &&& mB)
    (hm : mF ||| mA ||| mB = ~~~op.mask) :
    op.code ||| (BitVec.ofNat 64 f <<< 8) ||| (BitVec.ofNat 64 a <<< 16) ||| (BitVec.ofNat 64 b <<< 32)
      = op.code ||| (c &&& ~~~op.mask) := by
  rw [hf, ha, hb, ← hm, BitVec.and_or_distrib_left, BitVec.and_or_distrib_left, BitVec.or_assoc, BitVec.or_assoc,
    BitVec.or_assoc]

/-- `F[4:0]` of `HFINAL` is `TAILN` with `ADD` above it (R73). -/
theorem fieldF_hfinal (c : Word) : (Opcode.hfinal.withOperands c).fieldF = field c 12 8 := by
  simp only [Opcode.withOperands, Instr.fieldF, field, beq_iff_eq]
  split <;> omega

theorem opcode_withOperands (op : Opcode) (c : Word) : (op.withOperands c).opcode = op := by cases op <;> rfl

/-- Encoding the operands read from a word restores the bits of the word that the row leaves open. -/
theorem encode_withOperands (op : Opcode) (c : Word) : encode (op.withOperands c) = op.code ||| (c &&& ~~~op.mask) := by
  have hnone := zero_shiftLeft_eq_and_zero c
  have hF12 := shiftLeft_field c 12 8 (m := 0x1F00) (by decide)
  have hF14 := shiftLeft_field c 14 8 (m := 0x7F00) (by decide)
  have hA := shiftLeft_field c 31 16 (m := 0xFFFF0000) (by decide)
  have hB := shiftLeft_field c 47 32 (m := 0xFFFF00000000) (by decide)
  rw [encode, opcode_withOperands]
  cases op with
  | nop | hinit | hblock | rupd | card | clrerr => exact code_or_fields _ (hnone 8) (hnone 16) (hnone 32) (by decide)
  | hfinal => exact code_or_fields .hfinal (fieldF_hfinal c ▸ hF12) (hnone 16) (hnone 32) (by decide)
  | einit | alpha => exact code_or_fields _ hF12 (hnone 16) (hnone 32) (by decide)
  | rmax => exact code_or_fields .rmax hF12 hA hB (by decide)
  | rread => exact code_or_fields .rread (hnone 8) hA (hnone 32) (by decide)
  | rank => exact code_or_fields .rank hF14 (hnone 16) (hnone 32) (by decide)

theorem admits_iff {op : Opcode} {c : Word} : op.row.admits c = true ↔ c &&& op.mask = op.code := by
  simp [Row.admits, Opcode.row]

/-- Settles O3: the row's mask fixes the bits outside the fields, and the encoding restores the bits in them. -/
theorem decodedWordIsItsEncoding : Obligations.DecodedWordIsItsEncoding := by
  intro c i h
  refine ⟨wellFormed_of_decode h, ?_⟩
  obtain ⟨op, hadm, rfl⟩ := admits_of_decode h
  rw [encode_withOperands, ← admits_iff.1 hadm, ← BitVec.and_or_distrib_left, BitVec.or_not_self, BitVec.and_allOnes]

/-! ### The rows of the table, and the illegal words (R75, R76, R77) -/

/-- Settles O4: the opcode byte, which every mask includes, names the row. -/
theorem atMostOneRowAdmitsWord : Obligations.AtMostOneRowAdmitsWord := by
  refine ⟨fun c r hr q hq hrc hqc => ?_, fun c i h => ?_, fun c r hr hrc => ?_⟩
  · rw [mem_opcodeTable.1 hr] at hrc ⊢
    rw [mem_opcodeTable.1 hq] at hqc ⊢
    rw [code_injective ((opcode_of_admits hrc).symm.trans (opcode_of_admits hqc))]
  · obtain ⟨op, hadm, rfl⟩ := admits_of_decode h
    rw [opcode_withOperands]
    exact ⟨mem_opcodeTable.2 rfl, hadm⟩
  · rw [mem_opcodeTable.1 hr] at hrc
    exact decode_of_admits hrc

theorem decode_of_unassigned {c : Word} (h : ∀ op : Opcode, c &&& 0xFF ≠ op.code) :
    decode c = .error .unassignedOpcode := by
  have hany : ¬ opcodeTable.any (fun r => c &&& 0xFF == r.matchWord) = true := by
    rw [List.any_eq_true]
    rintro ⟨r, hr, hc⟩
    rw [mem_opcodeTable.1 hr] at hc
    exact h r.op (beq_iff_eq.1 hc)
  rw [decode_of_no_row fun op => Bool.eq_false_iff.2 fun hadm => h op (opcode_of_admits hadm), illegalReason, if_neg hany]

theorem decode_of_reserved {c : Word} {op : Opcode} (hop : c &&& 0xFF = op.code) (hbit : c &&& op.mask ≠ op.code) :
    decode c = .error .reservedBit := by
  have hany : opcodeTable.any (fun r => c &&& 0xFF == r.matchWord) = true :=
    List.any_eq_true.2 ⟨op.row, mem_opcodeTable.2 rfl, beq_iff_eq.2 hop⟩
  have hnone : ∀ op' : Opcode, op'.row.admits c = false := fun op' => Bool.eq_false_iff.2 fun hadm => by
    rw [code_injective ((opcode_of_admits hadm).symm.trans hop), admits_iff] at hadm
    exact hbit hadm
  rw [decode_of_no_row hnone, illegalReason, if_pos hany]

/-- The opcode byte as an unsigned integer (R72). -/
theorem field_opcode {c : Word} {op : Opcode} (h : c &&& 0xFF = op.code) : field c 7 0 = op.code.toNat := by
  rw [← h, BitVec.toNat_and, field, pow_zero, Nat.div_one]
  exact (Nat.and_two_pow_sub_one_eq_mod c.toNat 8).symm

/-- No row's opcode is in the unassigned ranges of R76. -/
theorem code_assigned (op : Opcode) : ¬ ((0x04 ≤ op.code.toNat ∧ op.code.toNat ≤ 0x0F) ∨
    (0x15 ≤ op.code.toNat ∧ op.code.toNat ≤ 0x1F) ∨ (0x22 ≤ op.code.toNat ∧ op.code.toNat ≤ 0x2F) ∨
    0x31 ≤ op.code.toNat) := by
  cases op <;> decide

/-- Settles O5: each reason is that of the opcode byte, which no row has or one row has. -/
theorem illegalWordsAreRefusedByName : Obligations.IllegalWordsAreRefusedByName := by
  refine ⟨fun c h => ?_, fun c r hr hop hbit => ?_, fun c h => ?_⟩
  · exact decode_of_unassigned fun op => h op.row (mem_opcodeTable.2 rfl)
  · rw [mem_opcodeTable.1 hr] at hop hbit
    exact decode_of_reserved hop hbit
  · refine decode_of_unassigned fun op hop => code_assigned op ?_
    rwa [← field_opcode hop]

/-- Settles O1: the examples' words are computed, the round trip gives the way back, and each illegal word has its reason. -/
theorem encodingExamplesHold : Obligations.EncodingExamplesHold := by
  refine ⟨fun e he => ?_, fun c hc i hi => ?_⟩
  · have henc : e.1.WellFormed ∧ encode e.1 = e.2 := by
      revert e
      decide
    obtain ⟨hwf, hword⟩ := henc
    exact ⟨hword, hword ▸ decodeOfEncodeIsIdentity e.1 hwf⟩
  · have hbad : ∃ e, decode c = .error e := by
      simp only [List.mem_cons, List.not_mem_nil, or_false] at hc
      rcases hc with rfl | rfl | rfl | rfl
      · exact ⟨_, decode_of_reserved (op := .hfinal) (by decide) (by decide)⟩
      · exact ⟨_, decode_of_reserved (op := .hinit) (by decide) (by decide)⟩
      · exact ⟨_, decode_of_unassigned fun op => by cases op <;> decide⟩
      · exact ⟨_, decode_of_reserved (op := .card) (by decide) (by decide)⟩
    obtain ⟨e, he⟩ := hbad
    rw [he] at hi
    cases hi

/-! ### A write to `CMD` (R70) -/

theorem runCommand_of_decode {c : Word} {i : Instr} (h : decode c = .ok i) (s : State) : runCommand c s = exec i s := by
  simp only [runCommand, h]

theorem runCommand_of_illegal {c : Word} {e : Illegal} (h : decode c = .error e) (s : State) :
    runCommand c s = .next (s.errorCompletion .illegal) := by
  simp only [runCommand, h, fail_eq]

/-- Settles O6: the step takes the write, answers it and runs the word. -/
theorem stepRunsDecodedCommand : Obligations.StepRunsDecodedCommand := by
  intro s c rest h
  rw [step_cmd h]
  exact ⟨fun i hi => runCommand_of_decode hi _, fun e he => runCommand_of_illegal he _⟩

end Sys2Proof.Proofs

/-! ## Proofs: the hash engine (40_hash_engine.md) -/

namespace Sys2Proof.Proofs

open Sys2Proof.Machine Sys2Proof.Laws

/-! ### The mixing functions (R101, R104) -/

/-- Multiplication by a word with an inverse is a bijection. -/
theorem bijective_mul_right {c d : Word} (h : c * d = 1) : Function.Bijective (fun k : Word => k * c) :=
  (Units.mkOfMulEqOne c d h).mulRight_bijective

theorem bijective_mul_mulC1 : Function.Bijective (fun k : Word => k * mulC1) :=
  bijective_mul_right (d := 0xA98409E882CE4D7D) (by decide)

theorem bijective_mul_mulC2 : Function.Bijective (fun k : Word => k * mulC2) :=
  bijective_mul_right (d := 0xA81E14EDD9DE2C7F) (by decide)

theorem bijective_mul_mulF1 : Function.Bijective (fun k : Word => k * mulF1) :=
  bijective_mul_right (d := 0x4F74430C22A54005) (by decide)

theorem bijective_mul_mulF2 : Function.Bijective (fun k : Word => k * mulF2) :=
  bijective_mul_right (d := 0x9CB4B2F8129337DB) (by decide)

theorem getLsbD_rotl64 (k : Word) (r : Nat) {i : Nat} (hi : i < 64) :
    (rotl64 k r).getLsbD i = if i < r then k.getLsbD (64 - r + i) else k.getLsbD (i - r) := by
  rw [rotl64, BitVec.getLsbD_or, BitVec.getLsbD_shiftLeft, BitVec.getLsbD_ushiftRight]
  split
  next hlow => simp [hlow]
  next hhigh =>
    rw [BitVec.getLsbD_of_ge k _ (show 64 ≤ 64 - r + i by omega)]
    simp [hhigh, hi]

/-- A rotation is undone by the rotation through the rest of the word. -/
theorem rotl64_rotl64 (k : Word) {r : Nat} (hr : 0 < r) (hr64 : r < 64) : rotl64 (rotl64 k r) (64 - r) = k := by
  refine BitVec.eq_of_getLsbD_eq fun i hi => ?_
  rw [getLsbD_rotl64 _ _ hi]
  split
  next hlow =>
    have hbit : 64 - (64 - r) + i - r = i := by omega
    rw [getLsbD_rotl64 k r (by omega), if_neg (by omega), hbit]
  next hhigh =>
    have hbit : 64 - r + (i - (64 - r)) = i := by omega
    rw [getLsbD_rotl64 k r (by omega), if_pos (by omega), hbit]

theorem bijective_rotl64 {r : Nat} (hr : 0 < r) (hr64 : r < 64) : Function.Bijective (fun k : Word => rotl64 k r) := by
  have hleft : Function.LeftInverse (fun k => rotl64 k (64 - r)) (fun k => rotl64 k r) :=
    fun k => rotl64_rotl64 k hr hr64
  exact Finite.injective_iff_bijective.1 hleft.injective

/-- `xorShift33` undoes itself, because two shifts by 33 leave nothing of a word. -/
theorem xorShift33_involutive : Function.Involutive xorShift33 := by
  intro k
  have hout : k >>> 33 >>> 33 = 0#64 := by
    rw [← BitVec.shiftRight_add]
    exact BitVec.ushiftRight_eq_zero (by norm_num)
  rw [xorShift33, xorShift33, BitVec.ushiftRight_xor_distrib, hout, BitVec.xor_zero, BitVec.xor_assoc, BitVec.xor_self,
    BitVec.xor_zero]

theorem bijective_mixK1 : Function.Bijective mixK1 :=
  bijective_mul_mulC2.comp ((bijective_rotl64 (r := 31) (by norm_num) (by norm_num)).comp bijective_mul_mulC1)

theorem bijective_mixK2 : Function.Bijective mixK2 :=
  bijective_mul_mulC1.comp ((bijective_rotl64 (r := 33) (by norm_num) (by norm_num)).comp bijective_mul_mulC2)

theorem bijective_fmix64 : Function.Bijective fmix64 :=
  have hxor := xorShift33_involutive.bijective
  hxor.comp (bijective_mul_mulF2.comp (hxor.comp (bijective_mul_mulF1.comp hxor)))

/-- Settles O30: each function is a composition of multiplications by odd constants with a rotation or with
`xorShift33`. -/
theorem mixingFunctionsAreBijections : Obligations.MixingFunctionsAreBijections :=
  ⟨bijective_mixK1, bijective_mixK2, bijective_fmix64, by decide, by decide, by decide⟩

/-! ### The tail step (R103) -/

theorem getLsbD_maskWord (n : Nat) {i : Nat} (hi : i < 64) : (maskWord n).getLsbD i = decide (i < n) := by
  rw [maskWord, BitVec.getLsbD_ofNat, Nat.testBit_two_pow_sub_one, decide_eq_true hi, Bool.true_and]

/-- Two words with the same first `n` bytes are the same under the mask of `n` bytes. -/
theorem and_maskWord_congr {v w : Word} {n : Nat}
    (h : ∀ k, k < n → v.extractLsb' (8 * k) 8 = w.extractLsb' (8 * k) 8) :
    v &&& maskWord (8 * n) = w &&& maskWord (8 * n) := by
  refine BitVec.eq_of_getLsbD_eq fun i hi => ?_
  rw [BitVec.getLsbD_and, BitVec.getLsbD_and, getLsbD_maskWord _ hi]
  by_cases hin : i < 8 * n
  · have hbyte := congrArg (BitVec.getLsbD · (i % 8)) (h (i / 8) (by omega))
    have hlane : i % 8 < 8 := Nat.mod_lt _ (by norm_num)
    simp only [BitVec.getLsbD_extractLsb', hlane, decide_true, Bool.true_and, Nat.div_add_mod] at hbyte
    rw [hbyte]
  · simp [hin]

theorem streamByte_low (d0 d1 : Word) {j : Nat} (hj : j < 8) : streamByte d0 d1 j = d0.extractLsb' (8 * j) 8 := if_pos hj

theorem streamByte_high (d0 d1 : Word) (k : Nat) : streamByte d0 d1 (8 + k) = d1.extractLsb' (8 * k) 8 := by
  rw [streamByte, if_neg (by omega), Nat.add_sub_cancel_left]

/-- Settles O29: the two masked words of the tail step hold the first `r` stream bytes and nothing else. -/
theorem tailBytesBeyondLengthAreIgnored : Obligations.TailBytesBeyondLengthAreIgnored := by
  intro h1 h2 d0 d1 e0 e1 r _ h
  have hfirst : d0 &&& maskWord (8 * min r 8) = e0 &&& maskWord (8 * min r 8) :=
    and_maskWord_congr fun k hk => by
      rw [← streamByte_low d0 d1 (by omega), ← streamByte_low e0 e1 (by omega)]
      exact h k (by omega)
  have hsecond : d1 &&& maskWord (8 * (r - 8)) = e1 &&& maskWord (8 * (r - 8)) :=
    and_maskWord_congr fun k hk => by
      rw [← streamByte_high d0 d1, ← streamByte_high e0 e1]
      exact h (8 + k) (by omega)
  rw [tailStep, tailStep, hfirst, hsecond]

/-! ### The commands (R110 to R113) -/

/-- A word with a command's opcode is illegal when it has a bit that the row's mask fixes and the match word lacks
(R75, R77). -/
theorem illegalWhenReserved_of_mask {op : Opcode} {reserved : Word} (hmask : op.mask &&& reserved = reserved)
    (hcode : op.code &&& reserved = 0) : IllegalWhenReserved op reserved := by
  intro c s hop hbit
  refine runCommand_of_illegal (decode_of_reserved hop fun hadm => hbit ?_) s
  rw [← hmask, ← BitVec.and_assoc, hadm, hcode]

theorem exec_hinit (s : State) : exec .hinit s =
    .next (s.setHash (seedWord s.params.hashSeed) (seedWord s.params.hashSeed) 0).openHash.successCompletion := rfl

/-- Settles O24: `HINIT` has no check, and a reserved bit makes the word illegal. -/
theorem hinitCompletes : Obligations.HinitCompletes :=
  ⟨exec_hinit, illegalWhenReserved_of_mask (by decide) (by decide)⟩

theorem exec_hblock {s : State} (ho : s.hopen = true) : exec .hblock s =
    .next (s.setHash (blockStep s.h1 s.h2 s.data0 s.data1).1 (blockStep s.h1 s.h2 s.data0 s.data1).2
      (s.hlen + 16)).successCompletion := by
  simp [exec, execHblock, ho]

theorem exec_hblock_seq {s : State} (ho : s.hopen = false) : exec .hblock s = .next (s.errorCompletion .seq) := by
  simp [exec, execHblock, ho]

/-- Settles O25: the one check of `HBLOCK` is that a hash is open. -/
theorem hblockCompletes : Obligations.HblockCompletes :=
  ⟨fun _ ho => exec_hblock ho, fun _ ho => exec_hblock_seq ho, illegalWhenReserved_of_mask (by decide) (by decide)⟩

theorem exec_hfinal {s : State} (r : Nat) (ho : s.hopen = true) :
    exec (.hfinal r false) s = .next (s.finalised r).successCompletion := by
  simp [exec, execHfinal, ho]

theorem exec_hfinal_add {s : State} (r : Nat) (hp : s.prec ≠ 0) (ho : s.hopen = true) : exec (.hfinal r true) s =
    .next ((s.finalised r).registerUpdate (digestOf (s.finishedDigest r).1 (s.finishedDigest r).2)).successCompletion := by
  simp [exec, execHfinal, (configured_eq_true s).2 hp, ho]

theorem exec_hfinal_noCfg {s : State} (r : Nat) (hp : s.prec = 0) :
    exec (.hfinal r true) s = .next (s.errorCompletion .noCfg) := by
  simp [exec, execHfinal, (configured_eq_false s).2 hp]

theorem exec_hfinal_seq {s : State} (r : Nat) {add : Bool} (hadd : add = true → s.prec ≠ 0) (ho : s.hopen = false) :
    exec (.hfinal r add) s = .next (s.errorCompletion .seq) := by
  have hcfg : ¬ (add = true ∧ s.configured = false) := fun ⟨ha, hc⟩ => hadd ha ((configured_eq_false s).1 hc)
  exact (if_neg hcfg).trans (if_pos ho)

theorem exec_rupd {s : State} (hp : s.prec ≠ 0) (hd : s.dvalid = true) :
    exec .rupd s = .next (s.registerUpdate (digestOf s.digestHi s.digestLo)).successCompletion := by
  simp [exec, execRupd, (configured_eq_true s).2 hp, hd]

/-- The success completion before a register update changes nothing that is left after the completion behind it. -/
theorem registerUpdate_successCompletion (s : State) (d : BitVec 128) :
    (s.successCompletion.registerUpdate d).successCompletion = (s.registerUpdate d).successCompletion := (rfl)

/-- Settles O27: after `HFINAL` the digest registers hold the digest that `HFINAL` with `ADD` updates with. -/
theorem hfinalAddIsHfinalThenRupd : Obligations.HfinalAddIsHfinalThenRupd := by
  refine ⟨fun r s t hp ho h => ?_, fun r s hp => ⟨_, exec_hfinal_noCfg r hp, ?_⟩⟩
  · obtain rfl := Host.Outcome.next.inj ((exec_hfinal r ho).symm.trans h)
    rw [exec_hfinal_add r hp ho, exec_rupd (by simpa using hp) (by simp), registerUpdate_successCompletion,
      successCompletion_digestHi, successCompletion_digestLo, finalised_digestHi, finalised_digestLo]
  · simp [ErrCode.code]

/-- The entries after a register update: the selected one is raised to the maximum, every other one stays (R152). -/
theorem reg_registerUpdate {s : State} (hi : s.Inv) (hp : s.prec ≠ 0) {d : BitVec 128} {w : BitVec 32}
    (hw : updateWord d s.params.updBitOffset = w) :
    ((s.registerUpdate d).reg (updateIndex w s.p)).toNat = max (s.reg (updateIndex w s.p)).toNat (updateRank w s.p) ∧
    ∀ j, j ≠ updateIndex w s.p → (s.registerUpdate d).reg j = s.reg j := by
  obtain ⟨h4, h16⟩ := Inv_prec_range hi hp
  obtain ⟨-, hrank⟩ := updateRank_range w (p := s.p) (by omega)
  rw [registerUpdate_eq, hw]
  refine ⟨?_, fun j hj => ?_⟩
  · rw [reg_raiseReg hi.regsCanonical hp, if_pos rfl, maxEntry_toNat _ (by omega)]
  · rw [reg_raiseReg hi.regsCanonical hp, if_neg hj]

/-- Settles O26: an equation of `HFINAL` for each way it can end; with `ADD` the entries are those after the register
update with the new digest. -/
theorem hfinalCompletes : Obligations.HfinalCompletes := by
  refine ⟨fun r add s hinv _ ho hadd => ?_, fun r s hp => exec_hfinal_noCfg r hp,
    fun r add s hadd ho => exec_hfinal_seq r hadd ho, illegalWhenReserved_of_mask (by decide) (by decide)⟩
  cases add with
  | false =>
    refine ⟨_, exec_hfinal r ho, ?_⟩
    simp [finishedDigest_eq]
  | true =>
    have hp := hadd rfl
    have hentries := reg_registerUpdate (inv_finalised hinv r) (by simpa using hp)
      (d := digestOf (s.finishedDigest r).1 (s.finishedDigest r).2) rfl
    refine ⟨_, exec_hfinal_add r hp ho, ?_⟩
    simpa [← finishedDigest_eq, digestOf] using hentries

end Sys2Proof.Proofs

/-! ## Proofs: the access sequence of `HASHB` (R80, R106) -/

namespace Sys2Proof.Proofs

open Sys2Proof.Machine Sys2Proof.Laws

/-! ### Lines of a host program as a triple -/

/-- The block takes the accesses `lines` from every state with `P` to a state with `Q`, whatever the host does after
them. -/
def Takes (P : State → Prop) (lines : List HostEvent) (Q : State → Prop) : Prop :=
  ∀ (s : State) (rest : List HostEvent), P s → s.pending = lines ++ rest →
    ∃ t, RunsTo lines.length s t ∧ Q t ∧ t.pending = rest

theorem takes_nil {P Q : State → Prop} (h : ∀ s, P s → Q s) : Takes P [] Q :=
  fun s _ hs hpend => ⟨s, runsTo_zero s, h s hs, hpend⟩

theorem takes_append {P Q R : State → Prop} {l m : List HostEvent} (hl : Takes P l Q) (hm : Takes Q m R) :
    Takes P (l ++ m) R := by
  intro s rest hs hpend
  obtain ⟨t, hrun, ht, htpend⟩ := hl s (m ++ rest) hs (by rw [hpend, List.append_assoc])
  obtain ⟨u, hrun', hu, hupend⟩ := hm t rest ht htpend
  exact ⟨u, List.length_append ▸ runsTo_add hrun hrun', hu, hupend⟩

theorem takes_weaken {P Q R : State → Prop} {l : List HostEvent} (hl : Takes P l Q) (h : ∀ t, Q t → R t) :
    Takes P l R := fun s rest hs hpend =>
  have ⟨t, hrun, ht, htpend⟩ := hl s rest hs hpend
  ⟨t, hrun, h t ht, htpend⟩

/-- The line `WR r, v` (R79): its effect is that of the write in the state with the access taken and answered. -/
theorem takes_wr {P Q : State → Prop} {base : Nat} {r : BusReg} {v : Word} (hbase : ∀ s, P s → s.params.base = base)
    (h : ∀ s rest, P s → ∃ t, writeReg r v ((s.await rest).answer .writeDone) = .next t ∧ Q t ∧ t.pending = rest) :
    Takes P [wr base r v] Q := by
  intro s rest hs hpend
  rw [← hbase s hs] at hpend
  obtain ⟨t, hwrite, ht, htpend⟩ := h s rest hs
  exact ⟨t, runsTo_succ ((step_wr hpend).trans hwrite) (runsTo_zero t), ht, htpend⟩

/-- A command line (R78). -/
theorem takes_cmd {P Q : State → Prop} {base : Nat} {i : Instr} (hi : i.WellFormed)
    (hbase : ∀ s, P s → s.params.base = base)
    (h : ∀ s rest, P s → ∃ t, exec i ((s.await rest).answer .writeDone) = .next t ∧ Q t ∧ t.pending = rest) :
    Takes P [cmd base i] Q :=
  takes_wr hbase fun s rest hs =>
    have ⟨t, hexec, ht⟩ := h s rest hs
    ⟨t, (runCommand_of_decode (decodeOfEncodeIsIdentity i hi) _).trans hexec, ht⟩

/-! ### The states between the lines of `HASHB` -/

/-- What no line of `HASHB` writes: the error state, the estimator and the parameters. -/
def keptPart (s : State) : Config.Params × Bool × BitVec 8 × BitVec 5 × RegFile × Nat :=
  (s.params, s.err, s.firstErr, s.prec, s.regs, s.resets)

@[simp] theorem keptPart_await (s : State) (rest : List HostEvent) : keptPart (s.await rest) = keptPart s := (rfl)
@[simp] theorem keptPart_answer (s : State) (r : BusResponse) : keptPart (s.answer r) = keptPart s := (rfl)
@[simp] theorem keptPart_setData0 (s : State) (v : Word) : keptPart (s.setData0 v) = keptPart s := (rfl)
@[simp] theorem keptPart_setData1 (s : State) (v : Word) : keptPart (s.setData1 v) = keptPart s := (rfl)
@[simp] theorem keptPart_setHash (s : State) (a b len : Word) : keptPart (s.setHash a b len) = keptPart s := (rfl)
@[simp] theorem keptPart_openHash (s : State) : keptPart s.openHash = keptPart s := (rfl)
@[simp] theorem keptPart_closeHash (s : State) (hi lo len : Word) : keptPart (s.closeHash hi lo len) = keptPart s := (rfl)
@[simp] theorem keptPart_finalised (s : State) (r : Nat) : keptPart (s.finalised r) = keptPart s :=
  keptPart_closeHash s _ _ _
@[simp] theorem keptPart_successCompletion (s : State) : keptPart s.successCompletion = keptPart s := (rfl)

/-- `u` is the block in the middle of `HASHB` of `bytes`, begun in `s`: a hash is open and its first `b` blocks are
absorbed. -/
structure Absorbed (s : State) (bytes : List Byte) (b : Nat) (u : State) : Prop where
  kept : keptPart u = keptPart s
  hopen : u.hopen = true
  accumulators : (u.h1, u.h2) = absorbBlocks s.params.hashSeed bytes b
  hlen : u.hlen = BitVec.ofNat 64 (16 * b)

/-- The `b`-th group of a stream stands in `DATA0` and `DATA1` (R56). -/
def BlockLoaded (bytes : List Byte) (b : Nat) (u : State) : Prop :=
  u.data0 = (groupWords bytes b).1 ∧ u.data1 = (groupWords bytes b).2

/-- The tail of a stream stands in `DATA0` and `DATA1`, as far as the tail step reads them (R103). -/
def TailLoaded (bytes : List Byte) (u : State) : Prop :=
  (0 < bytes.length % 16 → u.data0 = (groupWords bytes (bytes.length / 16)).1) ∧
  (8 < bytes.length % 16 → u.data1 = (groupWords bytes (bytes.length / 16)).2)

/-- `t` is the block after `HASHB` of `bytes`, begun in `s` (R106). -/
structure Hashed (s : State) (bytes : List Byte) (t : State) : Prop where
  kept : keptPart t = keptPart s
  digest : (t.digestHi, t.digestLo) = murmur3 s.params.hashSeed bytes
  hlen : t.hlen = BitVec.ofNat 64 bytes.length
  dvalid : t.dvalid = true
  hopen : t.hopen = false
  lastErr : t.lastErr = 0

/-- The tail step reads a word of the tail only when the tail reaches into it (R103). -/
theorem tailStep_congr (h1 h2 : Word) {d0 d1 e0 e1 : Word} {r : Nat} (hd0 : 0 < r → d0 = e0) (hd1 : 8 < r → d1 = e1) :
    tailStep h1 h2 d0 d1 r = tailStep h1 h2 e0 e1 r :=
  Prod.ext (ite_congr rfl (fun hr => by rw [hd0 hr]) fun _ => rfl) (ite_congr rfl (fun hr => by rw [hd1 hr]) fun _ => rfl)

/-- The length counted by blocks and the tail make up the stream's length modulo `2^64` (R107). -/
theorem ofNat_blocks_add_tail (n : Nat) :
    BitVec.ofNat 64 (16 * (n / 16)) + BitVec.ofNat 64 (n % 16) = BitVec.ofNat 64 n := by
  rw [← BitVec.ofNat_add, Nat.div_add_mod]

section Lines

variable {s : State} {bytes : List Byte} {b : Nat}

theorem Absorbed.base {u : State} (h : Absorbed s bytes b u) : u.params.base = s.params.base :=
  congrArg (fun k => k.1.base) h.kept

/-- With every whole block absorbed and the tail loaded, `HFINAL` computes the function of R106. -/
theorem finishedDigest_eq_murmur3 {u : State} (h : Absorbed s bytes (bytes.length / 16) u) (ht : TailLoaded bytes u) :
    u.finishedDigest (bytes.length % 16) = murmur3 s.params.hashSeed bytes := by
  rw [finishedDigest_eq, tailStep_congr u.h1 u.h2 ht.1 ht.2, h.hlen, ofNat_blocks_add_tail, murmur3, ← h.accumulators]

/-! ### What each line does -/

theorem takes_hinit (s : State) (bytes : List Byte) :
    Takes (· = s) [cmd s.params.base .hinit] (Absorbed s bytes 0) :=
  takes_cmd rfl (fun _ h => by rw [h]) fun u rest h => by
    subst h
    exact ⟨_, exec_hinit _,
      { kept := by simp, hopen := by simp, accumulators := by simp [absorbBlocks], hlen := by simp }, by simp⟩

theorem takes_data0 (v : Word) :
    Takes (Absorbed s bytes b) [wr s.params.base .data0 v] (fun u => Absorbed s bytes b u ∧ u.data0 = v) :=
  takes_wr (fun _ => Absorbed.base) fun _ _ h => ⟨_, rfl, ⟨{ h with }, rfl⟩, rfl⟩

theorem takes_data1 (v w : Word) :
    Takes (fun u => Absorbed s bytes b u ∧ u.data0 = v) [wr s.params.base .data1 w]
      (fun u => Absorbed s bytes b u ∧ u.data0 = v ∧ u.data1 = w) :=
  takes_wr (fun _ ⟨h, _⟩ => h.base) fun _ _ ⟨h, hd⟩ => ⟨_, rfl, ⟨{ h with }, hd, rfl⟩, rfl⟩

theorem takes_data (v w : Word) :
    Takes (Absorbed s bytes b) [wr s.params.base .data0 v, wr s.params.base .data1 w]
      (fun u => Absorbed s bytes b u ∧ u.data0 = v ∧ u.data1 = w) :=
  takes_append (takes_data0 v) (takes_data1 v w)

/-- `HBLOCK` absorbs the next block of R106. -/
theorem takes_hblock :
    Takes (fun u => Absorbed s bytes b u ∧ BlockLoaded bytes b u) [cmd s.params.base .hblock]
      (Absorbed s bytes (b + 1)) :=
  takes_cmd rfl (fun _ ⟨h, _⟩ => h.base) fun _ _ ⟨h, hd0, hd1⟩ =>
    ⟨_, exec_hblock h.hopen,
      { kept := by simp [h.kept]
        hopen := by simp [h.hopen]
        accumulators := by simp [absorbBlocks, ← h.accumulators, hd0, hd1]
        hlen := by simp [h.hlen, Nat.mul_add, BitVec.ofNat_add] }, by simp⟩

/-- `HFINAL r` with the tail loaded ends the hash (R112). -/
theorem takes_hfinal :
    Takes (fun u => Absorbed s bytes (bytes.length / 16) u ∧ TailLoaded bytes u)
      [cmd s.params.base (.hfinal (bytes.length % 16) false)] (Hashed s bytes) :=
  takes_cmd (wellFormed_hfinal.2 (Nat.mod_lt _ (by norm_num))) (fun _ ⟨h, _⟩ => h.base) fun u rest ⟨h, ht⟩ => by
    have hdigest := finishedDigest_eq_murmur3 (u := (u.await rest).answer .writeDone) { h with } ht
    exact ⟨_, exec_hfinal _ h.hopen,
      { kept := by simp [h.kept]
        digest := by simp [hdigest]
        hlen := by simp [h.hlen, ofNat_blocks_add_tail]
        dvalid := by simp
        hopen := by simp
        lastErr := by simp }, by simp⟩

/-! ### The parts of the sequence -/

theorem takes_block (b : Nat) :
    Takes (Absorbed s bytes b) (blockLines s.params.base bytes b) (Absorbed s bytes (b + 1)) :=
  takes_append (takes_data _ _) takes_hblock

theorem takes_blocks (n : Nat) :
    Takes (Absorbed s bytes 0) ((List.range n).flatMap (blockLines s.params.base bytes)) (Absorbed s bytes n) := by
  induction n with
  | zero => exact takes_nil fun _ h => h
  | succ n ih =>
    rw [List.range_succ, List.flatMap_append, List.flatMap_singleton]
    exact takes_append ih (takes_block n)

/-- The host writes the words that the tail reaches into (R80). -/
theorem takes_tail :
    Takes (Absorbed s bytes b) (tailLines s.params.base bytes) (fun u => Absorbed s bytes b u ∧ TailLoaded bytes u) := by
  simp only [tailLines]
  rcases Nat.eq_zero_or_pos (bytes.length % 16) with h0 | h0
  · have h8 : ¬ 8 < bytes.length % 16 := by omega
    rw [if_neg (by omega), if_neg h8]
    exact takes_nil fun u h => ⟨h, fun hr => absurd hr (by omega), fun hr => absurd hr h8⟩
  rw [if_pos h0]
  by_cases h8 : 8 < bytes.length % 16
  · rw [if_pos h8]
    exact takes_weaken (takes_data _ _) fun u ⟨h, hd0, hd1⟩ => ⟨h, fun _ => hd0, fun _ => hd1⟩
  · rw [if_neg h8]
    exact takes_weaken (takes_data0 _) fun u ⟨h, hd0⟩ => ⟨h, fun _ => hd0, fun hr => absurd hr h8⟩

end Lines

/-- `HASHB` from any state (R80, R106). -/
theorem takes_hashLines (s : State) (bytes : List Byte) :
    Takes (· = s) (hashLines s.params.base bytes false) (Hashed s bytes) :=
  takes_append (takes_hinit s bytes) (takes_append (takes_append (takes_blocks _) takes_tail) takes_hfinal)

/-- Settles O31: by induction on the number of whole blocks, with `Absorbed` as the state between two of them. -/
theorem hashSequenceComputesMurmur3 : Obligations.HashSequenceComputesMurmur3 := by
  intro s bytes rest hpend
  obtain ⟨t, hrun, ht, htpend⟩ := takes_hashLines s bytes s rest rfl hpend
  obtain ⟨hhi, hlo⟩ := Prod.mk.inj ht.digest
  have hkept := ht.kept
  simp only [keptPart, Prod.mk.injEq] at hkept
  obtain ⟨-, herr, hfirst, hprec, hregs, hresets⟩ := hkept
  exact ⟨t, hrun, hhi, hlo, ht.hlen, ht.dvalid, ht.hopen, ht.lastErr, herr, hfirst, hprec, hregs, hresets, htpend⟩

end Sys2Proof.Proofs

/-! ## Proofs: the estimator configuration, the alpha table and the host's precision rule (41_estimator_config.md) -/

namespace Sys2Proof.Proofs

open Sys2Proof.Machine Sys2Proof.Laws

/-! ### The alpha table (R130, R131) -/

/-- The table has an entry for 4..16 only: its last alternative is that `p` is none of these. -/
theorem alphaRom_eq_none_iff (p : Nat) : alphaRom p = none ↔ p < 4 ∨ 16 < p := by
  unfold alphaRom
  split
  case h_14 =>
    simp only [true_iff, imp_false] at *
    omega
  all_goals simp

theorem exists_alphaRom {p : Nat} (h4 : 4 ≤ p) (h16 : p ≤ 16) : ∃ a, alphaRom p = some a :=
  Option.ne_none_iff_exists'.1 fun h => by
    have := (alphaRom_eq_none_iff p).1 h
    omega

/-- Settles O32: the thirteen entries by exact rational arithmetic, each compared with the table's word. -/
theorem alphaRomIsRoundedAlpha : Obligations.AlphaRomIsRoundedAlpha := by
  refine ⟨by decide, by decide, by decide, fun p h7 h16 => ?_, fun p => (alphaRom_eq_none_iff p).2⟩
  interval_cases p <;> decide

/-! ### The commands `EINIT` and `ALPHA` (R132, R133) -/

theorem exec_einit (s : State) {p : Nat} (h4 : 4 ≤ p) (h16 : p ≤ 16) :
    exec (.einit p) s = .next (s.construct p).successCompletion := by
  rcases execEinit_cases p s with ⟨hout, -⟩ | ⟨-, -, h⟩
  · omega
  · exact h

theorem exec_einit_domain (s : State) {p : Nat} (hout : p < 4 ∨ 16 < p) :
    exec (.einit p) s = .next (s.errorCompletion .domain) := by
  rcases execEinit_cases p s with ⟨-, h⟩ | ⟨h4, h16, -⟩
  · exact h
  · omega

/-- Settles O33: an equation of `EINIT` for each way it can end; the new estimator is that of `State.construct`. -/
theorem einitCompletes : Obligations.EinitCompletes := by
  refine ⟨fun p s h4 h16 => ⟨_, exec_einit s h4 h16, ?_, fun i _ => ?_, rfl, rfl⟩,
    fun _ s hout => exec_einit_domain s hout, illegalWhenReserved_of_mask (by decide) (by decide)⟩
  · rw [successCompletion_p, construct_p s h16]
  · rw [successCompletion_reg, construct_reg s h4 h16]

theorem exec_alpha (s : State) {p : Nat} {a : BitVec 32} (ha : alphaRom p = some a) :
    exec (.alpha p) s = .next (s.setResult (a.setWidth 64)).successCompletion := by
  simp [exec, execAlpha, ha]

theorem exec_alpha_domain (s : State) {p : Nat} (ha : alphaRom p = none) :
    exec (.alpha p) s = .next (s.errorCompletion .domain) := by
  simp [exec, execAlpha, ha]

/-- Settles O34: the one check of `ALPHA` is that the table has an entry, which is so exactly for 4..16. -/
theorem alphaCompletes : Obligations.AlphaCompletes := by
  refine ⟨fun p s h4 h16 => ?_, fun p s hout => exec_alpha_domain s ((alphaRom_eq_none_iff p).2 hout),
    illegalWhenReserved_of_mask (by decide) (by decide)⟩
  obtain ⟨a, ha⟩ := exists_alphaRom h4 h16
  exact ⟨a, ha, exec_alpha s ha⟩

/-! ### The host's precision rule (R139) -/

/-- The rule in integers: the bit length of `⌈a / b⌉ - 1` is at most `p` exactly when `a ≤ 2^p b`. -/
theorem bitlen_ceil_pred_le_iff {a b : Nat} (hb : 0 < b) (p : Nat) :
    bitlen ((a + b - 1) / b - 1) ≤ p ↔ a ≤ b * 2 ^ p := by
  have hpow : 0 < 2 ^ p := Nat.two_pow_pos p
  calc bitlen ((a + b - 1) / b - 1) ≤ p ↔ (a + b - 1) / b ≤ 2 ^ p := by
        rw [bitlen_le_iff]
        omega
    _ ↔ a ≤ b * 2 ^ p := by
        rw [← Nat.ceilDiv_eq_add_pred_div, ceilDiv_le_iff_le_mul hb, Nat.mul_comm]

/-- The inequality of R139 with the denominators cleared. -/
theorem sq_error_le_iff {num : Nat} (hnum : 0 < num) (den p : Nat) :
    ((1.04 : ℝ) / (num / den)) ^ 2 ≤ 2 ^ p ↔ (104 * den) ^ 2 ≤ (100 * num) ^ 2 * 2 ^ p := by
  have hnum' : (0 : ℝ) < 100 * num := by positivity
  have herr : (1.04 : ℝ) / (num / den) = 104 * den / (100 * num) := by
    rw [div_div_eq_mul_div, ← mul_div_mul_left _ _ (by norm_num : (100 : ℝ) ≠ 0)]
    ring
  rw [herr, div_pow, div_le_iff₀' (by positivity)]
  norm_cast

/-- The computed precision is at most `p` exactly when `p` meets the inequality of R139. -/
theorem hostPrecision_le_iff {num : Nat} (hnum : 0 < num) (den p : Nat) :
    hostPrecision num den ≤ p ↔ ((1.04 : ℝ) / (num / den)) ^ 2 ≤ 2 ^ p :=
  (bitlen_ceil_pred_le_iff (by positivity) p).trans (sq_error_le_iff hnum den p).symm

/-- Settles O59: the precisions that meet the inequality are those from the computed one upwards. -/
theorem hostPrecisionIsLeast : Obligations.HostPrecisionIsLeast := fun _ den hnum _ =>
  ⟨(hostPrecision_le_iff hnum den _).1 le_rfl, fun p => (hostPrecision_le_iff hnum den p).2⟩

end Sys2Proof.Proofs

/-! ## Proofs: rank extraction and the register update (42_rank_update.md) -/

namespace Sys2Proof.Proofs

open Sys2Proof.Machine Sys2Proof.Laws

/-! ### The two formulations of the rank (R150, R157) -/

/-- The leading zeros and the bit length fill the width. The induction follows the counter from the top bit down: when
that bit is set no zero is counted and the bit length is the whole width. -/
theorem clz_add_bitlen {w mb : Nat} (h : w < 2 ^ mb) : clz w mb + bitlen w = mb := by
  induction mb with
  | zero => exact (Nat.zero_add _).trans (Nat.le_zero.1 ((bitlen_le_iff w 0).2 h))
  | succ mb ih =>
    by_cases htop : w.testBit mb = true
    · have hle : bitlen w ≤ mb + 1 := (bitlen_le_iff w (mb + 1)).2 h
      have hgt : ¬ bitlen w ≤ mb := fun hfit =>
        Nat.not_lt.2 (Nat.ge_two_pow_of_testBit htop) ((bitlen_le_iff w mb).1 hfit)
      rw [clz, if_pos htop]
      omega
    · have hfit : w < 2 ^ mb := Nat.lt_pow_two_of_testBit w fun j hj => by
        rcases Nat.eq_or_lt_of_le hj with rfl | hj
        · exact Bool.eq_false_iff.2 htop
        · exact Nat.testBit_lt_two_pow (h.trans_le (Nat.pow_le_pow_right (by norm_num) hj))
      rw [clz, if_neg htop, Nat.add_right_comm, ih hfit]

/-- Settles O36: where the value fits, both formulations subtract its bit length from the width. -/
theorem rankEqualsLeadingZeroCounter : Obligations.RankEqualsLeadingZeroCounter := by
  refine fun w mb => ⟨fun h => ?_, rankOf_eq_none⟩
  have hclz := clz_add_bitlen h
  have hrank : mb - bitlen w + 1 = 1 + clz w mb := by omega
  exact ⟨hrank ▸ rankOf_eq_some h, by omega, by omega⟩

/-! ### The command `RANK` (R153) -/

theorem exec_rank {s : State} {mb : Nat} (h : s.data0.toNat < 2 ^ mb) : exec (.rank mb) s =
    .next (s.setResult (BitVec.ofNat 64 (mb - bitlen s.data0.toNat + 1))).successCompletion := by
  simp [exec, execRank, rankOf_eq_some h]

theorem exec_rank_domain {s : State} {mb : Nat} (h : 2 ^ mb ≤ s.data0.toNat) :
    exec (.rank mb) s = .next (s.errorCompletion .domain) := by
  simp [exec, execRank, rankOf_eq_none h]

/-- Settles O35: the least width that `DATA0` fits is its bit length, and fitting `mb` bits is the one check. -/
theorem rankCompletes : Obligations.RankCompletes :=
  ⟨fun _ s _ h => ⟨bitlen s.data0.toNat, (bitlen_le_iff _ _).1 le_rfl, fun k => (bitlen_le_iff _ k).2, exec_rank h⟩,
    fun _ _ _ h => exec_rank_domain h, illegalWhenReserved_of_mask (by decide) (by decide)⟩

/-! ### The update slice (R151) -/

theorem updateWord_eq (d : BitVec 128) (off : Nat) : updateWord d off = BitVec.ofNat 32 (d.toNat / 2 ^ off) := by
  rw [updateWord, BitVec.extractLsb', Nat.shiftRight_eq_div_pow]

/-- Index and remainder are the two parts of the update word. -/
theorem toNat_eq_updateIndex_add (w : BitVec 32) (p : Nat) :
    w.toNat = updateIndex w p + 2 ^ p * updateRemainder w p := (Nat.mod_add_div _ _).symm

/-- Settles O37: the remainder has `32 - P` bits for every `P` up to 32, so its rank exists and is in range. -/
theorem updateSliceIsInRange : Obligations.UpdateSliceIsInRange := by
  intro d q p _ h16 w
  have hp : p ≤ 32 := by omega
  exact ⟨updateWord_eq d _, updateIndex_lt w p, toNat_eq_updateIndex_add w p, updateRank_eq w hp, updateRank_range w hp⟩

/-! ### The command `RUPD` (R154) -/

theorem exec_rupd_noCfg {s : State} (hp : s.prec = 0) : exec .rupd s = .next (s.errorCompletion .noCfg) := by
  simp [exec, execRupd, (configured_eq_false s).2 hp]

theorem exec_rupd_seq {s : State} (hp : s.prec ≠ 0) (hd : s.dvalid = false) :
    exec .rupd s = .next (s.errorCompletion .seq) := by
  simp [exec, execRupd, (configured_eq_true s).2 hp, hd]

/-- Settles O38: an equation of `RUPD` for each way it can end; the entries are those after the register update. -/
theorem rupdCompletes : Obligations.RupdCompletes := by
  refine ⟨fun s hinv hp hd => ?_, fun _ => exec_rupd_noCfg, fun _ => exec_rupd_seq,
    illegalWhenReserved_of_mask (by decide) (by decide)⟩
  obtain ⟨hselected, hothers⟩ := reg_registerUpdate hinv hp (d := digestOf s.digestHi s.digestLo) rfl
  exact ⟨_, exec_rupd hp hd, hselected, hothers, rfl⟩

/-! ### Register updates as maxima (R155) -/

/-- What a digest offers to entry `k`: its rank if it selects the entry, and 0, which raises no entry, if not. -/
def offeredRank (s : State) (d : BitVec 128) (k : Nat) : Nat :=
  if k = updateIndex (updateWord d s.params.updBitOffset) s.p then updateRank (updateWord d s.params.updBitOffset) s.p
  else 0

/-- No register update changes what a digest offers. -/
theorem offeredRank_registerUpdate (s : State) (d e : BitVec 128) (k : Nat) :
    offeredRank (s.registerUpdate d) e k = offeredRank s e k := (rfl)

/-- A register update is a maximum into every entry. -/
theorem toNat_reg_registerUpdate {s : State} (hinv : s.Inv) (hp : s.prec ≠ 0) (d : BitVec 128) (k : Nat) :
    ((s.registerUpdate d).reg k).toNat = max (s.reg k).toNat (offeredRank s d k) := by
  obtain ⟨hselected, hothers⟩ := reg_registerUpdate hinv hp (d := d) rfl
  unfold offeredRank
  split
  next hk => rw [hk, hselected]
  next hk => rw [hothers k hk, Nat.max_zero]

theorem toNat_reg_registerUpdate_twice {s : State} (hinv : s.Inv) (hp : s.prec ≠ 0) (d e : BitVec 128) (k : Nat) :
    (((s.registerUpdate d).registerUpdate e).reg k).toNat =
      max (max (s.reg k).toNat (offeredRank s d k)) (offeredRank s e k) := by
  rw [toNat_reg_registerUpdate (inv_registerUpdate hinv hp d) hp, offeredRank_registerUpdate,
    toNat_reg_registerUpdate hinv hp]

/-- Configured states of the invariant that differ in no more than the entry list and read the same entries are equal. -/
theorem eq_of_toNat_reg_eq {t u : State} (ht : t.Inv) (hu : u.Inv) (hp : t.prec ≠ 0)
    (hframe : t = { u with regs := t.regs }) (hreg : ∀ k, (t.reg k).toNat = (u.reg k).toNat) : t = u := by
  have hpu : u.prec ≠ 0 := fun h => hp ((congrArg State.prec hframe).trans h)
  have hregs : t.regs = u.regs := canonical_ext ht.regsCanonical hu.regsCanonical fun k => by
    rw [← reg_of_configured hp, ← reg_of_configured hpu, BitVec.eq_of_toNat_eq (hreg k)]
  rw [hframe, hregs]

/-- Settles O39: entry by entry both claims are about maxima, and the entry list is canonical. -/
theorem registerUpdatesAreIdempotentAndCommute : Obligations.RegisterUpdatesAreIdempotentAndCommute := by
  intro s d e hinv hp
  have hd := inv_registerUpdate hinv hp d
  have he := inv_registerUpdate hinv hp e
  refine ⟨eq_of_toNat_reg_eq (inv_registerUpdate hd hp d) hd hp rfl fun k => ?_,
    eq_of_toNat_reg_eq (inv_registerUpdate hd hp e) (inv_registerUpdate he hp d) hp rfl fun k => ?_⟩
  · rw [toNat_reg_registerUpdate_twice hinv hp, toNat_reg_registerUpdate hinv hp, Nat.max_assoc, Nat.max_self]
  · rw [toNat_reg_registerUpdate_twice hinv hp, toNat_reg_registerUpdate_twice hinv hp, Nat.max_right_comm]

end Sys2Proof.Proofs

/-! ## Proofs: the cardinality estimate (43_cardinality.md) -/

namespace Sys2Proof.Proofs

open Sys2Proof.Machine Sys2Proof.Laws

/-! ### The exact real value of each region (R174) -/

theorem estimate_raw_eq (n zi v m : Nat) : estimate .raw n zi v m = ⌊(n : ℝ) / zi * 2 ^ 24⌋₊ := by
  have hcast : (n : ℝ) / zi * 2 ^ 24 = ((n * 2 ^ 24 : ℕ) : ℝ) / zi := by
    push_cast
    ring
  rw [hcast, Nat.floor_div_eq_div]
  rfl

theorem estimate_linear_eq (n zi : Nat) {v m : Nat} (hv : 0 < v) (hvm : v ≤ m) :
    estimate .linear n zi v m = ⌊2 ^ 24 * ((m : ℝ) * Real.log (m / v))⌋₊ := by
  have hfloor : estimate .linear n zi v m = ⌊((2 ^ 24 * m : ℕ) : ℝ) * Real.log (m / v)⌋₊ := floorLog_eq _ hv hvm
  rw [hfloor, Nat.cast_mul, mul_assoc]
  norm_cast

/-- The logarithm that the block takes is that of the reciprocal of `1 - E / 2^32`. -/
theorem log_div_sub {n d : Nat} (h : n < d) :
    Real.log ((d : ℝ) / ((d - n : ℕ) : ℝ)) = -Real.log (1 - (n : ℝ) / d) := by
  have hd : (d : ℝ) ≠ 0 := by exact_mod_cast Nat.ne_of_gt (Nat.zero_lt_of_lt h)
  rw [Nat.cast_sub h.le, ← Real.log_inv, one_sub_div hd, inv_div]

theorem estimate_large_eq {n zi : Nat} (v m : Nat) (hn : n < 2 ^ 32 * zi) :
    estimate .large n zi v m = ⌊2 ^ 24 * (-(2 ^ 32 : ℝ) * Real.log (1 - n / (2 ^ 32 * zi)))⌋₊ := by
  have hfloor : estimate .large n zi v m =
      ⌊((2 ^ 24 * 2 ^ 32 : ℕ) : ℝ) * Real.log ((2 ^ 32 * zi : ℕ) / (2 ^ 32 * zi - n : ℕ))⌋₊ :=
    floorLog_eq _ (Nat.sub_pos_of_lt hn) (Nat.sub_le _ _)
  rw [hfloor, log_div_sub hn, Nat.cast_mul, mul_assoc, mul_neg, neg_mul]
  norm_cast

/-- Settles O47: the raw region is a quotient of integers, and in the other two the truncated logarithm is exact. -/
theorem estimateIsExactTruncation : Obligations.EstimateIsExactTruncation := fun n zi v m _ _ =>
  ⟨estimate_raw_eq n zi v m, estimate_linear_eq n zi, estimate_large_eq v m⟩

/-! ### The region selection (R173, R178) -/

/-- When each region is selected, and when none. On each of the five branches the comparisons leave one answer. -/
theorem selectRegion_iff (n zi v m : Nat) :
    (selectRegion n zi v m = some .linear ↔ 2 * n ≤ 5 * m * zi ∧ 0 < v) ∧
    (selectRegion n zi v m = some .raw ↔
      (2 * n ≤ 5 * m * zi ∧ v = 0) ∨ (5 * m * zi < 2 * n ∧ 30 * n ≤ 2 ^ 32 * zi)) ∧
    (selectRegion n zi v m = some .large ↔ 5 * m * zi < 2 * n ∧ 2 ^ 32 * zi < 30 * n ∧ n < 2 ^ 32 * zi) ∧
    (selectRegion n zi v m = none ↔ 5 * m * zi < 2 * n ∧ 2 ^ 32 * zi < 30 * n ∧ 2 ^ 32 * zi ≤ n) := by
  unfold selectRegion
  split_ifs <;> simp only [Option.some.injEq, reduceCtorEq, true_iff, false_iff] <;> omega

/-- A quotient of integers against another one, compared without division. -/
theorem div_le_div_iff_mul_le {n zi p q : Nat} (hz : 0 < zi) (hq : 0 < q) :
    (n : ℝ) / zi ≤ p / q ↔ q * n ≤ p * zi := by
  rw [div_le_div_iff₀ (by exact_mod_cast hz) (by exact_mod_cast hq), mul_comm]
  norm_cast

/-- Settles O48: each threshold is a quotient of integers, so the real comparisons are the integer ones. -/
theorem regionSelectionMatchesRealThresholds : Obligations.RegionSelectionMatchesRealThresholds := by
  intro n zi v m hz e
  have hsmall : e ≤ 2.5 * m ↔ 2 * n ≤ 5 * m * zi := by
    rw [← div_le_div_iff_mul_le hz two_pos, show (2.5 : ℝ) * m = (5 * m : ℕ) / (2 : ℕ) by push_cast; ring]
  have hmid : e ≤ 2 ^ 32 / 30 ↔ 30 * n ≤ 2 ^ 32 * zi := by
    rw [← div_le_div_iff_mul_le hz (by norm_num)]
    norm_cast
  have hdomain : 2 ^ 32 ≤ e ↔ 2 ^ 32 * zi ≤ n := by
    rw [le_div_iff₀ (by exact_mod_cast hz)]
    norm_cast
  rw [hsmall, hmid, hdomain, lt_iff_lt_of_le_iff_le hsmall, lt_iff_lt_of_le_iff_le hmid,
    lt_iff_lt_of_le_iff_le hdomain]
  exact selectRegion_iff n zi v m

/-! ### The sums and their bounds (R171, R172, R175) -/

theorem scaledNumerator_lt {s : State} (hp : s.p ≤ 16) : s.scaledNumerator < 2 ^ 64 :=
  calc alphaInt s.p * 2 ^ (2 * s.p) < 2 ^ 32 * 2 ^ (2 * s.p) := by gcongr; exact alphaInt_lt _
    _ ≤ 2 ^ 32 * 2 ^ 32 := by gcongr <;> omega
    _ = 2 ^ 64 := by norm_num

/-- Settles O49: the bounds of the terms, summed. -/
theorem harmonicSumIsExactAndBounded : Obligations.HarmonicSumIsExactAndBounded := by
  intro s _ hp
  have hm := m_le_of_p hp
  obtain ⟨hlow, hhigh⟩ := harmonicSum_bounds s
  exact ⟨harmonicSum_eq s, zeroCount_eq s, hlow, hhigh, by omega, harmonicSum_lt hp, harmonicSum_pos s, zeroCount_le s,
    hm, rfl, scaledNumerator_lt hp⟩

/-- Settles O50: in each region the operands of the estimate are bounded. -/
theorem estimateFitsResult : Obligations.EstimateFitsResult := fun _ _ _ hp => estimate_lt hp

/-! ### The command `CARD` (R176, R177) -/

/-- A successful `CARD`, its three results and `LASTERR` written out. The step from `State.setEstimate` to the fields is
made here once, since in a larger goal the kernel would unfold word arithmetic on the way. -/
theorem exec_card {s : State} {r : Region} (hp : s.prec ≠ 0)
    (hr : selectRegion s.scaledNumerator s.harmonicSum s.zeroCount s.m = some r) :
    exec .card s = .next { s with
      result := BitVec.ofNat 64 (estimate r s.scaledNumerator s.harmonicSum s.zeroCount s.m)
      estZ := BitVec.ofNat 64 s.harmonicSum
      estInfo := BitVec.ofNat 64 s.zeroCount ||| (BitVec.ofNat 64 r.code <<< 24)
      lastErr := 0 } := by
  simp only [exec, execCard, (configured_eq_true s).2 hp, hr, reduceCtorEq, if_false]
  rfl

theorem exec_card_domain {s : State} (hp : s.prec ≠ 0)
    (hr : selectRegion s.scaledNumerator s.harmonicSum s.zeroCount s.m = none) :
    exec .card s = .next (s.errorCompletion .domain) := by
  simp [exec, execCard, (configured_eq_true s).2 hp, hr]

theorem exec_card_noCfg {s : State} (hp : s.prec = 0) : exec .card s = .next (s.errorCompletion .noCfg) := by
  simp [exec, execCard, (configured_eq_false s).2 hp]

/-- Settles O46: the sums are those of the model, and each clause is the case in which its region is selected. -/
theorem cardCompletes : Obligations.CardCompletes := by
  refine ⟨fun s hp => ?_, fun _ => exec_card_noCfg, illegalWhenReserved_of_mask (by decide) (by decide)⟩
  dsimp only
  rw [← harmonicSum_eq s, ← zeroCount_eq s, ← State.scaledNumerator, ← State.m]
  obtain ⟨hlinear, hraw, hlarge, hnone⟩ := selectRegion_iff s.scaledNumerator s.harmonicSum s.zeroCount s.m
  exact ⟨fun hsmall hv => exec_card hp (hlinear.2 ⟨hsmall, hv⟩),
    fun hsmall hv => exec_card hp (hraw.2 (.inl ⟨hsmall, hv⟩)),
    fun hsmall hmid => exec_card hp (hraw.2 (.inr ⟨hsmall, hmid⟩)),
    fun hsmall hmid hn => exec_card hp (hlarge.2 ⟨hsmall, hmid, hn⟩),
    fun hsmall hmid hn => exec_card_domain hp (hnone.2 ⟨hsmall, hmid, hn⟩)⟩

section SameEntries

variable {s t : State} (hp : s.p = t.p) (hreg : ∀ i, i < 2 ^ s.p → s.reg i = t.reg i)
include hp hreg

theorem harmonicSum_congr : s.harmonicSum = t.harmonicSum := by
  rw [harmonicSum_eq, harmonicSum_eq, ← hp]
  exact Finset.sum_congr rfl fun i hi => by rw [hreg i (Finset.mem_range.1 hi)]

theorem zeroCount_congr : s.zeroCount = t.zeroCount := by
  rw [zeroCount_eq, zeroCount_eq, ← hp]
  exact congrArg _ (Finset.filter_congr fun i hi => by rw [hreg i (Finset.mem_range.1 hi)])

end SameEntries

/-- Settles O51: the sums, the region and so the results are computed from `P` and the addressable entries. -/
theorem cardDependsOnEntriesOnly : Obligations.CardDependsOnEntriesOnly := by
  intro s t hs hprec hreg
  have ht : t.prec ≠ 0 := hprec ▸ hs
  have hp : s.p = t.p := congrArg BitVec.toNat hprec
  have hm : s.m = t.m := congrArg (2 ^ ·) hp
  have hn : s.scaledNumerator = t.scaledNumerator := by rw [State.scaledNumerator, State.scaledNumerator, hp]
  have hzi := harmonicSum_congr hp hreg
  have hv := zeroCount_congr hp hreg
  have hsel : selectRegion t.scaledNumerator t.harmonicSum t.zeroCount t.m =
      selectRegion s.scaledNumerator s.harmonicSum s.zeroCount s.m := by rw [hn, hzi, hv, hm]
  cases hr : selectRegion s.scaledNumerator s.harmonicSum s.zeroCount s.m with
  | none => exact ⟨_, _, exec_card_domain hs hr, exec_card_domain ht (hsel.trans hr), rfl, .inr ⟨rfl, rfl⟩⟩
  | some r =>
    refine ⟨_, _, exec_card hs hr, exec_card ht (hsel.trans hr), rfl, .inl ⟨rfl, ?_, ?_, ?_⟩⟩
    · simp [hn, hzi, hv, hm]
    · simp [hzi]
    · simp [hv]

end Sys2Proof.Proofs

/-! ## Proofs: merge, restore, register read and snapshot (44_merge_snapshot.md) -/

namespace Sys2Proof.Proofs

open Sys2Proof.Machine Sys2Proof.Laws

/-! ### The command `RMAX` (R190) -/

theorem exec_rmax {s : State} {i v : Nat} (hp : s.prec ≠ 0) (hi : i < 2 ^ s.p) (hv : v ≤ 31) :
    exec (.rmax i v s.p) s = .next (s.raiseReg i v).successCompletion := by
  simp [exec, execRmax, State.m, (configured_eq_true s).2 hp, Nat.not_le.2 hi, Nat.not_lt.2 hv]

theorem exec_rmax_noCfg {s : State} (i v ps : Nat) (hp : s.prec = 0) :
    exec (.rmax i v ps) s = .next (s.errorCompletion .noCfg) := by
  simp [exec, execRmax, (configured_eq_false s).2 hp]

theorem exec_rmax_prec {s : State} {ps : Nat} (i v : Nat) (hp : s.prec ≠ 0) (hps : ps ≠ s.p) :
    exec (.rmax i v ps) s = .next (s.errorCompletion .prec) := by
  simp [exec, execRmax, (configured_eq_true s).2 hp, hps]

theorem exec_rmax_index {s : State} {i : Nat} (v : Nat) (hp : s.prec ≠ 0) (hi : 2 ^ s.p ≤ i) :
    exec (.rmax i v s.p) s = .next (s.errorCompletion .index) := by
  simp [exec, execRmax, State.m, (configured_eq_true s).2 hp, hi]

theorem exec_rmax_value {s : State} {i v : Nat} (hp : s.prec ≠ 0) (hi : i < 2 ^ s.p) (hv : 31 < v) :
    exec (.rmax i v s.p) s = .next (s.errorCompletion .value) := by
  simp [exec, execRmax, State.m, (configured_eq_true s).2 hp, Nat.not_le.2 hi, hv]

/-- Settles O40: an equation of `RMAX` for each way it can end; the entries are those after the raise of one of them. -/
theorem rmaxCompletes : Obligations.RmaxCompletes := by
  refine ⟨fun i v s hinv hp hi hv => ⟨_, exec_rmax hp hi hv, ?_, fun j hj => ?_, rfl⟩, fun i v ps s =>
    ⟨exec_rmax_noCfg i v ps, exec_rmax_prec i v, fun hp hps hi => hps ▸ exec_rmax_index v hp hi,
      fun hp hps hi hv => hps ▸ exec_rmax_value hp hi hv⟩, illegalWhenReserved_of_mask (by decide) (by decide)⟩
  · rw [successCompletion_reg, reg_raiseReg hinv.regsCanonical hp, if_pos rfl, maxEntry_toNat _ hv]
  · rw [successCompletion_reg, reg_raiseReg hinv.regsCanonical hp, if_neg hj]

/-! ### The command `RREAD` (R191) -/

theorem exec_rread {s : State} {i : Nat} (hp : s.prec ≠ 0) (hi : i < 2 ^ s.p) :
    exec (.rread i) s = .next (s.setResult ((s.reg i).setWidth 64)).successCompletion := by
  simp [exec, execRread, State.m, (configured_eq_true s).2 hp, Nat.not_le.2 hi]

theorem exec_rread_noCfg {s : State} (i : Nat) (hp : s.prec = 0) :
    exec (.rread i) s = .next (s.errorCompletion .noCfg) := by
  simp [exec, execRread, (configured_eq_false s).2 hp]

theorem exec_rread_index {s : State} {i : Nat} (hp : s.prec ≠ 0) (hi : 2 ^ s.p ≤ i) :
    exec (.rread i) s = .next (s.errorCompletion .index) := by
  simp [exec, execRread, State.m, (configured_eq_true s).2 hp, hi]

/-- Settles O41: an equation of `RREAD` for each way it can end. -/
theorem rreadCompletes : Obligations.RreadCompletes :=
  ⟨fun _ _ => exec_rread, fun i _ => ⟨exec_rread_noCfg i, exec_rread_index⟩,
    illegalWhenReserved_of_mask (by decide) (by decide)⟩

/-! ### The lines of `MERGE` (R80, R192) -/

@[simp] theorem length_mergeFrom (base p i : Nat) (vs : List Nat) : (mergeFrom base p i vs).length = vs.length := by
  induction vs generalizing i with
  | nil => rfl
  | cons v vs ih => rw [mergeFrom, List.length_cons, List.length_cons, ih]

/-- An assertion about the block and the values it has taken so far, which every further line of `MERGE` keeps up, holds
of all the values after the last line. -/
theorem takes_mergeFrom {Q : List Nat → State → Prop} {base p : Nat} {vs done : List Nat}
    (hline : ∀ taken, ∀ v ∈ vs, taken.length < done.length + vs.length →
      Takes (Q taken) [cmd base (.rmax taken.length v p)] (Q (taken ++ [v]))) :
    Takes (Q done) (mergeFrom base p done.length vs) (Q (done ++ vs)) := by
  induction vs generalizing done with
  | nil => exact takes_nil fun _ h => by rwa [List.append_nil]
  | cons v vs ih =>
    have hfirst := hline done v List.mem_cons_self (by simp)
    have hothers := ih (done := done ++ [v]) fun taken w hw hlen =>
      hline taken w (List.mem_cons_of_mem v hw) (by
        simp only [List.length_append, List.length_cons, List.length_nil] at hlen ⊢
        omega)
    rw [List.length_append, List.append_assoc] at hothers
    exact takes_append hfirst hothers

/-- `u` is the block in the middle of `MERGE`, begun in `s`: the values `taken` are merged into its first entries, and
nothing else is changed but `LASTERR`, the queue and the answer. -/
structure Merged (s : State) (taken : List Nat) (u : State) : Prop where
  frame : u = { s with regs := u.regs, lastErr := u.lastErr, pending := u.pending, response := u.response }
  canonical : RegFile.Canonical u.regs
  raised : ∀ i, (u.reg i).toNat = max (s.reg i).toNat (taken.getD i 0)
  completed : taken ≠ [] → u.lastErr = 0 ∧ u.response = .writeDone

theorem merged_nil {s : State} (h : RegFile.Canonical s.regs) : Merged s [] s where
  frame := rfl
  canonical := h
  raised := by simp
  completed := by simp

section MergedState

variable {s u : State} {taken : List Nat} (h : Merged s taken u)
include h

theorem Merged.base : u.params.base = s.params.base := by rw [h.frame]
theorem Merged.prec : u.prec = s.prec := by rw [h.frame]
theorem Merged.p : u.p = s.p := congrArg BitVec.toNat h.prec
theorem Merged.err : u.err = s.err := by rw [h.frame]
theorem Merged.firstErr : u.firstErr = s.firstErr := by rw [h.frame]

end MergedState

theorem getD_append_singleton (taken : List Nat) (v i : Nat) :
    (taken ++ [v]).getD i 0 = if i = taken.length then v else taken.getD i 0 := by
  rcases Nat.lt_trichotomy i taken.length with hlt | rfl | hgt
  · rw [if_neg (Nat.ne_of_lt hlt), List.getD_append _ _ _ _ hlt]
  · simp
  · rw [if_neg (Nat.ne_of_gt hgt), List.getD_eq_default _ _ (by simpa using hgt),
      List.getD_eq_default _ _ (Nat.le_of_lt hgt)]

/-- The next line of `MERGE` raises the next entry. -/
theorem takes_rmax {s : State} {taken : List Nat} {v : Nat} (hp : s.prec ≠ 0) (h16 : s.p ≤ 16)
    (hlen : taken.length < 2 ^ s.p) (hv : v ≤ 31) :
    Takes (Merged s taken) [cmd s.params.base (.rmax taken.length v s.p)] (Merged s (taken ++ [v])) := by
  have hmMax : 2 ^ s.p ≤ Config.mMax := Nat.pow_le_pow_right (by norm_num) h16
  have hindex : taken.length < Config.mMax := Nat.lt_of_lt_of_le hlen hmMax
  refine takes_cmd (wellFormed_rmax.2 ⟨hindex, by omega, by omega⟩) (fun _ h => h.base) fun u rest h => ?_
  have hup : u.prec ≠ 0 := h.prec ▸ hp
  refine ⟨_, h.p ▸ exec_rmax (s := (u.await rest).answer .writeDone) hup (by simpa [h.p] using hlen) hv, ?_, rfl⟩
  exact {
    frame := by rw [h.frame]; rfl
    canonical := canonical_set h.canonical hindex _
    raised := fun i => by
      rw [successCompletion_reg, reg_raiseReg (s := (u.await rest).answer .writeDone) h.canonical hup,
        getD_append_singleton]
      by_cases hi : i = taken.length
      · have hold := h.raised taken.length
        rw [List.getD_eq_default _ _ le_rfl, Nat.max_zero] at hold
        rw [if_pos hi, if_pos hi, maxEntry_toNat _ hv, answer_reg, await_reg, hold, hi]
      · rw [if_neg hi, if_neg hi, answer_reg, await_reg, h.raised]
    completed := fun _ => ⟨rfl, rfl⟩ }

/-- `MERGE` of as many values as there are addressable entries, or of fewer (R80). -/
theorem takes_mergeLines {s : State} {entries : List Nat} (hp : s.prec ≠ 0) (h16 : s.p ≤ 16)
    (hlen : entries.length ≤ 2 ^ s.p) (hv : ∀ v ∈ entries, v ≤ 31) :
    Takes (Merged s []) (mergeLines s.params.base s.p entries) (Merged s entries) :=
  takes_mergeFrom (done := []) fun _ v hmem hindex =>
    takes_rmax hp h16 (Nat.lt_of_lt_of_le (by simpa using hindex) hlen) (hv v hmem)

theorem ne_nil_of_length_eq_two_pow {l : List Nat} {p : Nat} (h : l.length = 2 ^ p) : l ≠ [] :=
  List.ne_nil_of_length_pos (h ▸ Nat.two_pow_pos p)

/-- Settles O42: line by line, with `Merged` as the state between two lines. -/
theorem mergeSequenceIsRegisterwiseMaximum : Obligations.MergeSequenceIsRegisterwiseMaximum := by
  intro s entries rest hinv hp hlen hv hpend
  obtain ⟨-, h16⟩ := Inv_prec_range hinv hp
  obtain ⟨t, hrun, ht, htpend⟩ :=
    takes_mergeLines hp h16 hlen.le hv s rest (merged_nil hinv.regsCanonical) hpend
  obtain ⟨hlast, hresp⟩ := ht.completed (ne_nil_of_length_eq_two_pow hlen)
  rw [mergeLines, length_mergeFrom] at hrun
  refine ⟨t, hrun, fun i _ => ht.raised i, ?_⟩
  rw [← hlast, ← hresp, ← htpend]
  exact ht.frame

/-! ### `MERGE` of another precision (R192) -/

/-- `u` is the block in the middle of a `MERGE` of another precision, begun in `s`: once it has taken a value it
is in the error completion of `s`, and another `E_PREC` leaves it there. -/
structure PrecRefused (s : State) (taken : List Nat) (u : State) : Prop where
  prec : u.prec = s.prec
  params : u.params = s.params
  again : u.errorCompletion .prec = { s.errorCompletion .prec with pending := u.pending, response := u.response }
  completed : taken ≠ [] → u = { s.errorCompletion .prec with pending := u.pending, response := .writeDone }

theorem precRefused_nil (s : State) : PrecRefused s [] s where
  prec := rfl
  params := rfl
  again := rfl
  completed := by simp

theorem takes_rmax_prec {s : State} {taken : List Nat} {v p : Nat} (hp : s.prec ≠ 0) (hps : p ≠ s.p) (hp32 : p < 32)
    (hlen : taken.length < 65536) (hv : v < 65536) :
    Takes (PrecRefused s taken) [cmd s.params.base (.rmax taken.length v p)] (PrecRefused s (taken ++ [v])) :=
  takes_cmd (wellFormed_rmax.2 ⟨hlen, hv, hp32⟩) (fun _ h => by rw [h.params]) fun u rest h => by
    have hup : u.prec ≠ 0 := h.prec ▸ hp
    have hups : p ≠ u.p := by rwa [State.p, h.prec]
    have hnext : ((u.await rest).answer .writeDone).errorCompletion .prec =
        { s.errorCompletion .prec with pending := rest, response := .writeDone } :=
      congrArg (fun x : State => (x.await rest).answer .writeDone) h.again
    refine ⟨_, exec_rmax_prec _ _ hup hups, ?_, rfl⟩
    rw [hnext]
    exact { prec := rfl, params := rfl, again := rfl, completed := fun _ => rfl }

/-- Settles O43: line by line, with `PrecRefused` as the state between two lines. -/
theorem mergeOfOtherPrecisionChangesNoEntry : Obligations.MergeOfOtherPrecisionChangesNoEntry := by
  intro s p2 entries rest hp hps hp32 hne hlen hv hpend
  have htakes : Takes (PrecRefused s []) (mergeLines s.params.base p2 entries) (PrecRefused s entries) :=
    takes_mergeFrom (done := []) fun _ v hmem hindex =>
      takes_rmax_prec hp hps hp32 (Nat.lt_of_lt_of_le (by simpa using hindex) hlen) (hv v hmem)
  obtain ⟨t, hrun, ht, htpend⟩ := htakes s rest (precRefused_nil s) hpend
  have hfinal := ht.completed hne
  rw [htpend] at hfinal
  rw [mergeLines, length_mergeFrom] at hrun
  exact ⟨t, hrun, congrArg State.lastErr hfinal, congrArg State.err hfinal, hfinal⟩

/-! ### Restore and equality (R194, R195) -/

/-- Two blocks of one precision with the same addressable entries are equal: alpha and `m` follow from the precision. -/
theorem sameEstimator_of_reg_eq {s t : State} (hprec : s.prec = t.prec) (hreg : ∀ i, i < s.m → s.reg i = t.reg i) :
    s.sameEstimator t = true := by
  have hp : s.p = t.p := congrArg BitVec.toNat hprec
  have hm : s.m = t.m := congrArg (2 ^ ·) hp
  have halpha : s.alphaView = t.alphaView := by
    rw [State.alphaView, State.alphaView, State.configured, State.configured, hprec, hp]
  have hentries : (List.range s.m).map s.reg = (List.range s.m).map t.reg :=
    List.map_congr_left fun i hi => hreg i (List.mem_range.1 hi)
  rw [State.sameEstimator, beq_iff_eq, State.snapshot, State.snapshot, ← hp, ← hm, halpha, hentries]

/-- The entries of a snapshot, as the host hands them to `RESTORE`. -/
theorem getD_snapshot_registers (s : State) {i : Nat} (hi : i < s.m) :
    (s.snapshot.registers.map BitVec.toNat).getD i 0 = (s.reg i).toNat := by
  simp [State.snapshot, hi]

theorem length_snapshot_registers (s : State) : (s.snapshot.registers.map BitVec.toNat).length = 2 ^ s.p := by
  simp [State.snapshot, State.m]

theorem snapshot_registers_le (s : State) : ∀ v ∈ s.snapshot.registers.map BitVec.toNat, v ≤ 31 := by
  intro v hv
  obtain ⟨e, -, rfl⟩ := List.mem_map.1 hv
  exact Nat.le_of_lt_succ e.isLt

/-- The first line of `RESTORE` is `EINIT`: the merge begins with every entry 0. -/
theorem takes_einit (t : State) {p : Nat} (h4 : 4 ≤ p) (h16 : p ≤ 16) :
    Takes (· = t) [cmd t.params.base (.einit p)] (Merged (t.construct p) []) :=
  takes_cmd (wellFormed_einit.2 (by omega)) (fun _ h => by rw [h]) fun u rest h => by
    subst h
    exact ⟨_, exec_einit _ h4 h16,
      { frame := rfl, canonical := canonical_nil, raised := by simp [construct_reg _ h4 h16], completed := by simp },
      rfl⟩

/-- `RESTORE` of `2^p` entries merges them into a new estimator of precision `p` (R194). -/
theorem takes_restoreLines (t : State) {p : Nat} {entries : List Nat} (h4 : 4 ≤ p) (h16 : p ≤ 16)
    (hlen : entries.length = 2 ^ p) (hv : ∀ v ∈ entries, v ≤ 31) :
    Takes (· = t) (restoreLines t.params.base p entries) (Merged (t.construct p) entries) := by
  have hp : (t.construct p).p = p := construct_p t h16
  have hmerge := takes_mergeLines (prec_ne_zero_of_p (hp.symm ▸ h4)) (hp.symm ▸ h16) (hp.symm ▸ hlen.le) hv
  rw [construct_params, hp] at hmerge
  exact takes_append (takes_einit t h4 h16) hmerge

/-- Settles O44: the restored entries are the maxima of 0 and those of the snapshot. -/
theorem restoreOfSnapshotIsEqual : Obligations.RestoreOfSnapshotIsEqual := by
  intro s t rest hinv hp hpend
  obtain ⟨h4, h16⟩ := Inv_prec_range hinv hp
  have hlen := length_snapshot_registers s
  obtain ⟨u, hrun, hu, hupend⟩ := takes_restoreLines t h4 h16 hlen (snapshot_registers_le s) t rest rfl hpend
  obtain ⟨hlast, -⟩ := hu.completed (ne_nil_of_length_eq_two_pow hlen)
  have hprec : u.prec = s.prec := hu.prec.trans (BitVec.eq_of_toNat_eq (construct_p t h16))
  have hm : u.m = s.m := congrArg (2 ^ BitVec.toNat ·) hprec
  rw [restoreLines, mergeLines, List.length_cons, length_mergeFrom, hlen] at hrun
  refine ⟨u, hrun, sameEstimator_of_reg_eq hprec fun i hi => BitVec.eq_of_toNat_eq ?_, hlast, hupend,
    hu.err, hu.firstErr⟩
  rw [hu.raised, construct_reg t h4 h16, getD_snapshot_registers s (hm ▸ hi)]
  exact Nat.zero_max _

/-! ### Snapshot (R193) -/

/-- The block after the lines `RREAD i`, `RD RESULT` (R80), with `rest` still to come. -/
def entryRead (s : State) (i : Nat) (rest : List HostEvent) : State :=
  ((s.await rest).setResult ((s.reg i).setWidth 64)).successCompletion.answer (.readData ((s.reg i).setWidth 64))

@[simp] theorem entryRead_prec (s : State) (i : Nat) (rest : List HostEvent) : (entryRead s i rest).prec = s.prec := (rfl)
@[simp] theorem entryRead_p (s : State) (i : Nat) (rest : List HostEvent) : (entryRead s i rest).p = s.p := (rfl)
@[simp] theorem entryRead_params (s : State) (i : Nat) (rest : List HostEvent) :
    (entryRead s i rest).params = s.params := (rfl)
@[simp] theorem entryRead_pending (s : State) (i : Nat) (rest : List HostEvent) :
    (entryRead s i rest).pending = rest := (rfl)
@[simp] theorem entryRead_reg (s : State) (i : Nat) (rest : List HostEvent) (j : Nat) :
    (entryRead s i rest).reg j = s.reg j := (rfl)

/-- The lines `RREAD i`, `RD RESULT` answer with the entry. -/
theorem responses_rread {s : State} {i : Nat} {rest : List HostEvent} (hp : s.prec ≠ 0) (h16 : s.p ≤ 16)
    (hi : i < 2 ^ s.p) (hpend : s.pending = [cmd s.params.base (.rread i), rd s.params.base .result] ++ rest) (n : Nat) :
    responses (n + 2) s =
      [.writeDone, .readData ((s.reg i).setWidth 64)] ++ responses n (entryRead s i rest) := by
  have hindex : i < 65536 := Nat.lt_of_lt_of_le hi (Nat.pow_le_pow_right (by norm_num) h16 : 2 ^ s.p ≤ 2 ^ 16)
  have hrread := (step_line (decodeOfEncodeIsIdentity _ (wellFormed_rread.2 hindex)) hpend).trans (exec_rread hp hi)
  rw [responses_succ hrread, responses_succ (step_rd rfl)]
  rfl

/-- The lines of `SNAPSHOT` for some of the entries (R80). -/
def entryLines (base : Nat) (indices : List Nat) : List HostEvent :=
  indices.flatMap fun i => [cmd base (.rread i), rd base .result]

theorem snapshotLines_eq (base m : Nat) :
    snapshotLines base m = rd base .status :: rd base .alpha :: entryLines base (List.range m) := rfl

theorem entryLines_cons (base i : Nat) (indices : List Nat) :
    entryLines base (i :: indices) = [cmd base (.rread i), rd base .result] ++ entryLines base indices :=
  List.flatMap_cons

/-- The reads of any addressable entries, in any order. -/
theorem responses_entryLines {s : State} {indices : List Nat} {rest : List HostEvent} (hp : s.prec ≠ 0) (h16 : s.p ≤ 16)
    (hi : ∀ i ∈ indices, i < 2 ^ s.p) (hpend : s.pending = entryLines s.params.base indices ++ rest) :
    responses (2 * indices.length) s = indices.flatMap fun i => [.writeDone, .readData ((s.reg i).setWidth 64)] := by
  induction indices generalizing s with
  | nil => rfl
  | cons i indices ih =>
    obtain ⟨hfirst, hothers⟩ := List.forall_mem_cons.1 hi
    rw [entryLines_cons, List.append_assoc] at hpend
    have hnext := ih (s := entryRead s i (entryLines s.params.base indices ++ rest)) (by simpa using hp)
      (by simpa using h16) (by simpa using hothers) (by simp)
    simp only [entryRead_reg] at hnext
    rw [List.length_cons, Nat.mul_succ, responses_rread hp h16 hfirst hpend, hnext, List.flatMap_cons]

/-- The block after the line `RD r` (R79), with `rest` still to come. -/
def registerRead (s : State) (r : BusReg) (rest : List HostEvent) : State :=
  (s.await rest).answer (.readData (s.readReg r))

@[simp] theorem registerRead_prec (s : State) (r : BusReg) (rest : List HostEvent) :
    (registerRead s r rest).prec = s.prec := (rfl)
@[simp] theorem registerRead_p (s : State) (r : BusReg) (rest : List HostEvent) : (registerRead s r rest).p = s.p := (rfl)
@[simp] theorem registerRead_params (s : State) (r : BusReg) (rest : List HostEvent) :
    (registerRead s r rest).params = s.params := (rfl)
@[simp] theorem registerRead_pending (s : State) (r : BusReg) (rest : List HostEvent) :
    (registerRead s r rest).pending = rest := (rfl)
@[simp] theorem registerRead_reg (s : State) (r : BusReg) (rest : List HostEvent) (i : Nat) :
    (registerRead s r rest).reg i = s.reg i := (rfl)

theorem registerRead_readReg (s : State) (r q : BusReg) (rest : List HostEvent) :
    (registerRead s r rest).readReg q = s.readReg q := by
  cases q <;> rfl

theorem responses_rd {s : State} {r : BusReg} {rest : List HostEvent} (hpend : s.pending = rd s.params.base r :: rest)
    (n : Nat) : responses (n + 1) s = .readData (s.readReg r) :: responses n (registerRead s r rest) := by
  rw [responses_succ (step_rd hpend), readReg_await, answer_response, registerRead]

/-- Settles O45: two reads that only answer, and then the entries one by one. -/
theorem snapshotReadsEveryEntry : Obligations.SnapshotReadsEveryEntry := by
  intro s rest hp h16 hpend
  rw [snapshotLines_eq] at hpend
  let lines := entryLines s.params.base (List.range s.m) ++ rest
  let u := registerRead s .status (rd s.params.base .alpha :: lines)
  have hstatus : responses (2 * s.m + 2) s = .readData s.status :: responses (2 * s.m + 1) u := responses_rd hpend _
  have halpha := responses_rd (s := u) (r := .alpha) (rest := lines) (by simp [u]) (2 * s.m)
  have hentries := responses_entryLines (s := registerRead u .alpha lines) (indices := List.range s.m) (rest := rest)
    (by simpa [u] using hp) (by simpa [u] using h16) (by simp [u, State.m]) (by simp [u, lines])
  simp only [registerRead_reg, List.length_range, u] at hentries
  rw [Nat.add_comm, hstatus, halpha, hentries, registerRead_readReg, State.readReg]

end Sys2Proof.Proofs

/-! ## Proofs: the control commands (45_control.md) -/

namespace Sys2Proof.Proofs

open Sys2Proof.Machine Sys2Proof.Laws

theorem exec_nop (s : State) : exec .nop s = .next s.successCompletion := rfl

theorem exec_clrerr (s : State) : exec .clrerr s = .next s.clearErrors.successCompletion := rfl

/-- Settles O18: `NOP` has no check and no write of its own, so the success completion is all it does; its row fixes
every bit of the word. -/
theorem nopCompletes : Obligations.NopCompletes :=
  ⟨exec_nop, illegalWhenReserved_of_mask (by decide) (by decide)⟩

/-- Settles O19: `CLRERR` has no check, and its write is followed by the success completion; its row fixes every bit
of the word. -/
theorem clrerrCompletes : Obligations.ClrerrCompletes :=
  ⟨exec_clrerr, illegalWhenReserved_of_mask (by decide) (by decide)⟩

end Sys2Proof.Proofs

/-! ## Proofs: errors and the interrupt (60_exceptions.md) -/

namespace Sys2Proof.Proofs

open Sys2Proof.Machine Sys2Proof.Laws

/-! ### How a command ends (R220, R222, R225) -/

/-- Of the effects only that of `CLRERR` writes the sticky error status (R225). -/
theorem effect_sticky {i : Instr} {s u : State} (h : Effect i s u) (hi : i ≠ .clrerr) :
    u.err = s.err ∧ u.firstErr = s.firstErr := by
  cases h with
  | clrerr => exact absurd rfl hi
  | nop | hinit | hblock | hfinal | hfinalAdd | einit | rupd | rmax | rread | card | rank | alpha => simp

/-- Settles O21: of the two ways in which a command ends, the success completion clears `LASTERR` and keeps the sticky
status that the effect left. -/
theorem commandSucceedsOrChangesStatusOnly : Obligations.CommandSucceedsOrChangesStatusOnly := by
  intro i s
  rcases exec_ends i s with herror | ⟨u, hu, hx⟩
  · exact .inr herror
  · exact .inl ⟨u.successCompletion, hx, successCompletion_lastErr u, by simpa using effect_sticky hu⟩

/-! ### Every step has a next state (R226, R255) -/

theorem exists_next_exec (i : Instr) (s : State) : ∃ t, exec i s = .next t := by
  rcases exec_ends i s with ⟨e, -, h⟩ | ⟨u, -, h⟩
  · exact ⟨s.errorCompletion e, h⟩
  · exact ⟨u.successCompletion, h⟩

theorem exists_next_runCommand (c : Word) (s : State) : ∃ t, runCommand c s = .next t := by
  unfold runCommand
  split
  · exact exists_next_exec _ s
  · exact ⟨s.errorCompletion .illegal, rfl⟩

theorem exists_next_writeReg (r : BusReg) (v : Word) (s : State) : ∃ t, writeReg r v s = .next t := by
  cases r with
  | cmd => exact exists_next_runCommand v s
  | ctrl => exact ⟨s.writeCtrl v, rfl⟩
  | data0 => exact ⟨s.setData0 v, rfl⟩
  | data1 => exact ⟨s.setData1 v, rfl⟩
  | id | status | digestHi | digestLo | result | estZ | estInfo | hlen | alpha | param => exact ⟨s, rfl⟩

theorem exists_next_writeWindow (off : Nat) (v : Word) (s : State) : ∃ t, writeWindow off v s = .next t := by
  unfold writeWindow
  split
  · exact exists_next_writeReg _ v s
  · exact ⟨s, rfl⟩

theorem exists_next_accept (e : HostEvent) (s : State) : ∃ t, accept e s = .next t := by
  cases e with
  | read addr bytes =>
    simp only [accept]
    split <;> exact ⟨_, rfl⟩
  | write addr bytes v =>
    simp only [accept]
    split
    · exact exists_next_writeWindow _ v _
    · exact ⟨s.answer .writeError, rfl⟩
  | reset => exact ⟨s.resetBlock, rfl⟩

/-- Settles O22: an idle block keeps its state, and every event it takes leads to a next state. -/
theorem everyStepHasNextState : Obligations.EveryStepHasNextState := by
  intro s
  cases hpend : s.pending with
  | nil => exact ⟨s, step_idle hpend⟩
  | cons e rest =>
    rw [step_cons hpend]
    exact exists_next_accept e (s.await rest)

/-! ### The priority of the codes (R223) -/

/-- Settles O23: the codes below the lowest that applies do not apply, so the checks of `RMAX` before its own pass. -/
theorem rmaxReportsLowestCode : Obligations.RmaxReportsLowestCode := by
  intro i v ps s applies e he hmin
  have hlower : ∀ f, f.code.toNat < e.code.toNat → ¬ applies f := fun f hlt hf =>
    absurd (hmin f hf) (Nat.not_le.2 hlt)
  have hconfigured (h : 2 < e.code.toNat) : s.prec ≠ 0 := fun hp => hlower .noCfg h (.inl ⟨rfl, hp⟩)
  have hprec (h : 4 < e.code.toNat) : ps = s.p := by_contra fun hps => hlower .prec h (.inr (.inl ⟨rfl, hps⟩))
  have hindex (h : 5 < e.code.toNat) : i < 2 ^ s.p :=
    Nat.lt_of_not_le fun hi => hlower .index h (.inr (.inr (.inl ⟨rfl, hi⟩)))
  rcases he with ⟨rfl, hp⟩ | ⟨rfl, hps⟩ | ⟨rfl, hi⟩ | ⟨rfl, hv⟩
  · exact exec_rmax_noCfg i v ps hp
  · exact exec_rmax_prec i v (hconfigured (by decide)) hps
  · rw [hprec (by decide)]
    exact exec_rmax_index v (hconfigured (by decide)) hi
  · rw [hprec (by decide)]
    exact exec_rmax_value (hconfigured (by decide)) (hindex (by decide)) hv

/-! ### The interrupt output (R229) -/

theorem irq_eq_true (s : State) : s.irq = true ↔ s.err = true ∧ s.ie = true := Bool.and_eq_true_iff

theorem irq_of_noErr {s : State} (h : s.err = false) : s.irq = false := by rw [State.irq, h, Bool.false_and]

theorem irq_errorCompletion (s : State) (e : ErrCode) : (s.errorCompletion e).irq = s.ie := by
  rw [State.irq, errorCompletion_err, errorCompletion_ie, Bool.true_and]

theorem irq_writeCtrl (s : State) (v : Word) : (s.writeCtrl v).irq = (s.err && v.getLsbD 0) := by
  rw [State.irq, writeCtrl_err, writeCtrl_ie]

theorem irq_clrerr {s t : State} (h : exec .clrerr s = .next t) : t.irq = false := by
  obtain rfl : s.clearErrors.successCompletion = t := Host.Outcome.next.inj ((exec_clrerr s).symm.trans h)
  exact irq_of_noErr (by simp)

/-- Settles O15: an error completion sets `ERR`, `CLRERR` and reset clear it, and a write of `CTRL` gives `IE`. -/
theorem interruptIsErrAndEnable : Obligations.InterruptIsErrAndEnable :=
  ⟨irq_eq_true, irq_errorCompletion, fun _ _ => irq_clrerr, irq_writeCtrl, fun _ => irq_of_noErr rfl,
    irq_of_noErr rfl⟩

/-! ### The error completion (R224) -/

theorem errorCompletion_of_noErr {s : State} (h : s.err = false) (e : ErrCode) :
    s.errorCompletion e = { s with lastErr := e.code, firstErr := e.code, err := true } := by
  simp [State.errorCompletion, h]

theorem errorCompletion_of_err {s : State} (h : s.err = true) (e : ErrCode) :
    s.errorCompletion e = { s with lastErr := e.code } := by
  simp [State.errorCompletion, h]

theorem one_le_code (e : ErrCode) : 1 ≤ e.code.toNat :=
  Nat.one_le_iff_ne_zero.2 (BitVec.toNat_ne_iff_ne.2 (code_ne_zero e))

/-- Settles O20: the completion for a clear and for a set `ERR`, and the codes of R221. -/
theorem errorCompletionWritesStatusOnly : Obligations.ErrorCompletionWritesStatusOnly := fun _ e =>
  ⟨fun h => errorCompletion_of_noErr h e, fun h => errorCompletion_of_err h e, one_le_code e, code_le_seven e⟩

end Sys2Proof.Proofs

/-! ## Proofs: reset (70_reset_and_hazards.md) -/

namespace Sys2Proof.Proofs

open Sys2Proof.Machine Sys2Proof.Laws

/-! ### The reset input (R250) -/

theorem step_reset {s : State} {rest : List HostEvent} (h : s.pending = .reset :: rest) :
    step s = .next (s.await rest).resetBlock := step_cons h

/-- The free values that `resetBlock` draws anew are those of `H1`, `H2` and `REG`; with no open hash and no estimator
they are not observable, and every other field has its reset value (R42). -/
theorem sameObservable_resetBlock_reset (s : State) :
    SameObservable s.resetBlock { State.reset with pending := s.pending, params := s.params } := by
  constructor
  case accumulators => exact nofun
  case entries => exact nofun
  all_goals rfl

/-- Settles O17: the step on a reset event is `resetBlock`, whatever the state held before. -/
theorem resetInputRestoresResetState : Obligations.ResetInputRestoresResetState := fun s rest h =>
  ⟨(s.await rest).resetBlock, step_reset h, rfl, rfl, sameObservable_resetBlock_reset (s.await rest)⟩

/-! ### What a host observes after reset (R251) -/

theorem status_reset : State.reset.status = 0 := by decide

theorem paramWord_reset : State.reset.paramWord = 0 := by decide

/-- Settles O16: the views at their reset values, and the check of each command that fails with no open hash or no
estimator. -/
theorem resetLeavesObservableStateZero : Obligations.ResetLeavesObservableStateZero := by
  have hclosed : State.reset.hopen = false := rfl
  have hunconfigured : State.reset.prec = 0 := rfl
  have halpha : State.reset.alphaView = 0 := alphaView_unconfigured hunconfigured
  have hirq : State.reset.irq = false := irq_of_noErr rfl
  exact ⟨status_reset, halpha, rfl, rfl, rfl, rfl, rfl, rfl, rfl, rfl, rfl, hirq, rfl, paramWord_reset,
    rfl, rfl, rfl, hclosed, rfl, hunconfigured, rfl,
    exec_hblock_seq hclosed, fun r => exec_hfinal_seq r nofun hclosed, fun r => exec_hfinal_noCfg r hunconfigured,
    exec_rupd_noCfg hunconfigured, fun i v ps => exec_rmax_noCfg i v ps hunconfigured,
    fun i => exec_rread_noCfg i hunconfigured, exec_card_noCfg hunconfigured⟩

end Sys2Proof.Proofs
